-- ==== Sys2Proof/Word.lean ====
section
/-! DEFINITION. The word types of the block. Every register holds an unsigned value (spec R6); the widths are
those of spec/00_scope.md R5 and spec/10_state.md. Arithmetic is on naturals (R7) and is written where it is used. -/

namespace Sys2Proof

/-- The code of a sequencer operation, the whole of an instruction (R12, R60). -/
abbrev StateCode := BitVec 4

/-- A number of ticks: a pattern, a slot's duration, `tx_cnt` (R5 `TICK_W`). -/
abbrev TickCount := BitVec 16

/-- A clock frequency in whole MHz (R5 `CLK_MHZ_W`). -/
abbrev Megahertz := BitVec 16

/-- A raw ADC code (R5 `ADC_BITS`). -/
abbrev AdcCode := BitVec 12

/-- A voltage in whole millivolts (R17). -/
abbrev Millivolts := BitVec 12

/-- One colour channel (R18). -/
abbrev Channel := BitVec 8

end Sys2Proof
end

