-- ==== Sys2Proof/Syntax.lean ====
section
/-! DEFINITION. The operations of the sequencer: one constructor per row of spec/opcode_table.json (spec R60).
An operation has no operand fields. A reserved row that covers two codes carries the code. -/

namespace Sys2Proof

inductive Instr where
  /-- 0x0: wait for bring-up (R172) -/
  | rstWait
  /-- 0x1: compute the pulse patterns (R80) -/
  | calculate
  /-- 0x2: read the ADC, with retry (R100) -/
  | sample
  /-- 0x3: raw code to millivolts (R103) -/
  | convert
  /-- 0x4: millivolts to colour (R106) -/
  | map
  /-- 0x5: colour to frame (R90) -/
  | encode
  /-- 0x6: one tick of the waveform (R124) -/
  | tx
  /-- 0x7: terminator tick (R126) -/
  | txEnd
  /-- 0x8: present the report (R140) -/
  | report
  /-- 0x9: the 10 ms wait (R143) -/
  | pace
  /-- 0xF: terminal fault state (R153) -/
  | halt
  /-- 0xA, 0xB: reserved (R155); `code` is the code held by `state` -/
  | reservedAB (code : StateCode)
  /-- 0xC, 0xD: reserved (R155); `code` is the code held by `state` -/
  | reservedCD (code : StateCode)
  /-- 0xE: reserved (R155) -/
  | reservedE
  deriving DecidableEq, Repr

/-- The rows of the reserved codes (R60, R67). -/
def Instr.isReserved : Instr → Bool
  | .reservedAB _ | .reservedCD _ | .reservedE => true
  | .rstWait | .calculate | .sample | .convert | .map | .encode | .tx | .txEnd | .report | .pace | .halt => false

end Sys2Proof
end

