-- ==== Sys2Proof/WellFormed.lean ====
section
/-! DEFINITION. Which terms of `Instr` stand for codes of the hardware: a reserved row carries a code that meets its
mask and match in spec/opcode_table.json. Every other row has no field to check. -/

namespace Sys2Proof

/-- `code` is one of the two codes of a row with this match and mask 0xE. -/
def inPairRow (code matchBits : StateCode) : Bool := code &&& 0xE#4 == matchBits

def Instr.wf : Instr → Bool
  | .reservedAB code => inPairRow code 0xA#4
  | .reservedCD code => inPairRow code 0xC#4
  | .rstWait | .calculate | .sample | .convert | .map | .encode | .tx | .txEnd | .report | .pace | .halt
  | .reservedE => true

end Sys2Proof
end

