-- ==== Sys2Proof/Decode.lean ====
section
/-! DEFINITION. Decoding and encoding of state codes (spec/30_encoding.md R60, R62, R68). Decoding of the 4-bit
code is total: every code selects one row. A number wider than the `state` register is refused by name. -/

namespace Sys2Proof

/-- Why a number is no code of the sequencer. -/
inductive DecodeError where
  /-- it has a bit above bit 3, and `state` has 4 bits (R12, R68) -/
  | widerThanState
  deriving DecidableEq, Repr

/-- The row a code selects (R60, R62), bit 3 first, as the opcode table writes its encodings. -/
def decode (code : StateCode) : Instr :=
  match code.getLsbD 3, code.getLsbD 2, code.getLsbD 1, code.getLsbD 0 with
  | false, false, false, false => .rstWait
  | false, false, false, true => .calculate
  | false, false, true, false => .sample
  | false, false, true, true => .convert
  | false, true, false, false => .map
  | false, true, false, true => .encode
  | false, true, true, false => .tx
  | false, true, true, true => .txEnd
  | true, false, false, false => .report
  | true, false, false, true => .pace
  | true, false, true, false => .reservedAB 0xA#4
  | true, false, true, true => .reservedAB 0xB#4
  | true, true, false, false => .reservedCD 0xC#4
  | true, true, false, true => .reservedCD 0xD#4
  | true, true, true, false => .reservedE
  | true, true, true, true => .halt

/-- Decoding of any number: a 4-bit code, or refused by name (log entry 12). -/
def decodeNumber (w : Nat) : Except DecodeError Instr :=
  if w < 16 then .ok (decode (BitVec.ofNat 4 w)) else .error .widerThanState

/-- The code of an operation (R60). The two-code reserved rows give back the code they carry. -/
def encode : Instr → StateCode
  | .rstWait => 0x0#4
  | .calculate => 0x1#4
  | .sample => 0x2#4
  | .convert => 0x3#4
  | .map => 0x4#4
  | .encode => 0x5#4
  | .tx => 0x6#4
  | .txEnd => 0x7#4
  | .report => 0x8#4
  | .pace => 0x9#4
  | .halt => 0xF#4
  | .reservedAB code => code
  | .reservedCD code => code
  | .reservedE => 0xE#4

/-- What the decoder reads from an opcode-table word. The code is bits 3:0 of the one byte; a byte with a bit above
them is refused, whatever the table's width in whole bytes (log entry 12). -/
def decodeTableWord (_nbits w : Nat) : Option Instr :=
  match decodeNumber w with
  | .ok i => some i
  | .error _ => none

end Sys2Proof
end

