-- ==== Sys2Proof/Config.lean ====
section
/-! DEFINITION. The parameters the spec fixes (spec/00_scope.md R5), the input ports the environment drives
(spec/10_state.md R10), and the one free value: the environment's input vectors (spec/92_eei_decisions.md D28). -/

namespace Sys2Proof

/-- The input ports in one tick (R10). `clk` is the tick itself. The default is the vector of a `NOP` line, every
field 0 (R70). -/
structure Inputs where
  /-- synchronous reset, active high (R170) -/
  rst : Bool := false
  /-- bring-up is complete -/
  cfgValid : Bool := false
  /-- the frequency of the pulse-generation clock -/
  clockMhz : Megahertz := 0
  /-- bring-up failed -/
  initFail : Bool := false
  /-- the ADC has a result -/
  adcValid : Bool := false
  /-- the conversion result -/
  adcData : AdcCode := 0
  /-- the transmission channel reports a fault -/
  txFault : Bool := false
  deriving DecidableEq, Repr, Inhabited

namespace Config

/-- FREE VALUE (R10, D28, U5; log entry 1): the vector the environment applies in a tick that the state's `stim`
does not list. Nothing is known of it, so a statement that meets it holds for every environment. -/
opaque env : Nat → Inputs

/-- Full-scale ADC code (R5 `ADC_MAX`). -/
def adcMax : Nat := 4095
/-- Full-scale voltage (R5 `VREF_MV`). -/
def vrefMv : Nat := 3300
/-- Lower calibration threshold (R5 `V_LO_MV`). -/
def vLoMv : Nat := 500
/-- Upper calibration threshold (R5 `V_HI_MV`). -/
def vHiMv : Nat := 2800
/-- Logical 0, high phase (R5 `T0H_NS`). -/
def t0hNs : Nat := 400
/-- Logical 0, low phase (R5 `T0L_NS`). -/
def t0lNs : Nat := 850
/-- Logical 1, high phase (R5 `T1H_NS`). -/
def t1hNs : Nat := 850
/-- Logical 1, low phase (R5 `T1L_NS`). -/
def t1lNs : Nat := 400
/-- Frame length: 24 data slots and the terminator (R5 `NSLOTS`). -/
def nSlots : Nat := 25
/-- The index of the terminator slot (R45). -/
def terminator : Nat := 24
/-- Pacing delay in microseconds, which is also its length in ticks at 1 MHz (R5 `PACE_MS`, R141). -/
def paceUs : Nat := 10000

end Config
end Sys2Proof
end

