-- ==== Sys2Proof/Machine/State.lean ====
section
/-! DEFINITION. The state of the block as plain data (spec/10_state.md R12 to R22), the stimulus the environment
applies to it, the reasons a step can stop, and the state after a reset tick (R28). -/

namespace Sys2Proof.Machine

/-- `tx_phase`: the high or the low part of a slot (R20; HIGH = 0, LOW = 1). -/
inductive Phase where
  | high
  | low
  deriving DecidableEq, Repr, Inhabited

/-- The values of `fault` (R150). All four 2-bit codes are used. -/
inductive FaultCode where
  /-- 0 NONE: no fault since reset -/
  | noFault
  /-- 1 INIT_FAIL: `init_fail` = 1 in RST_WAIT -/
  | initFail
  /-- 2 TX_FAULT: `tx_fault` = 1 in TX or TX_END -/
  | txFault
  /-- 3 ILLEGAL_STATE: `state` holds a reserved code -/
  | illegalState
  deriving DecidableEq, Repr, Inhabited

/-- One slot of the frame buffer: its high-phase and low-phase durations in ticks (R41). -/
structure Slot where
  hi : TickCount
  lo : TickCount
  deriving DecidableEq, Repr, Inhabited

/-- The slot (0, 0): the terminator, and the reset contents of every slot (R28, R45). -/
def Slot.zero : Slot := ⟨0, 0⟩

/-- A listed slot of the frame buffer: its index and its contents (R40; log entry 4). -/
abbrev SlotCell := Nat × Slot

/-- The frame buffer (R19, R40): the slots that differ from (0, 0), by rising index. An unlisted slot reads (0, 0). -/
abbrev Memory := List SlotCell

/-- What the search of R123 answers: a sendable phase, or END(s). -/
inductive SeekResult where
  | position (slot : Nat) (phase : Phase)
  | ended (slot : Nat)
  deriving DecidableEq, Repr

/-- The output ports in one tick (R11). -/
structure Outputs where
  dout : Bool
  adcReq : Bool
  rptValid : Bool
  rptMv : Millivolts
  rptR : Channel
  rptG : Channel
  rptB : Channel
  halted : Bool
  status : BitVec 32
  deriving DecidableEq, Repr

structure State where
  /-- the operation of this tick (R12) -/
  state : StateCode
  /-- `clk_mhz_r` (R13) -/
  clkMhzR : Megahertz
  /-- the zero-pattern's high phase (R14) -/
  zeroHi : TickCount
  /-- the zero-pattern's low phase (R14) -/
  zeroLo : TickCount
  /-- the one-pattern's high phase (R14) -/
  oneHi : TickCount
  /-- the one-pattern's low phase (R14) -/
  oneLo : TickCount
  /-- `patterns_valid` (R15) -/
  patternsValid : Bool
  /-- the last ADC code (R16) -/
  raw : AdcCode
  /-- the measured voltage in millivolts (R17) -/
  voltage : Millivolts
  /-- R18 -/
  red : Channel
  /-- R18 -/
  green : Channel
  /-- R18 -/
  blue : Channel
  /-- the frame buffer (R19) -/
  frame : Memory
  /-- `tx_slot` (R20) -/
  txSlot : BitVec 5
  /-- `tx_phase` (R20) -/
  txPhase : Phase
  /-- `tx_cnt` (R20) -/
  txCnt : TickCount
  /-- `pace_cnt` (R21) -/
  paceCnt : BitVec 32
  /-- the first fault since reset (R22) -/
  fault : FaultCode
  /-- MODEL: the vectors the environment applies, this tick's first (D28; log entry 1) -/
  stim : List Inputs
  /-- MODEL: how many ticks have passed; indexes `Config.env` (log entry 1) -/
  tick : Nat
  deriving DecidableEq, Repr

/-- Reasons the machine stops. The block's own faults (R150) are no stop: they enter HALT (R152). -/
inductive Fault where
  /-- Raised by TX without `tx_fault` when `tx_slot` is above 24: slot `slot` does not exist (R40), and R45 says the
  value is never stored. Safe: the spec gives such a tick no effect, and no run reaches it (log entry 5). -/
  | noSuchSlot (slot : Nat)
  deriving DecidableEq, Repr

/-- Reasons an operation has no meaning in the model. -/
inductive Refusal where
  /-- Raised by a rejected arm of exec only; every arm has its meaning, so nothing raises it. Safe. -/
  | notModelled (mnemonic : String)
  deriving DecidableEq, Repr

/-- The registers after a reset tick (R28, R170). The two fields of the model's own: no vector listed, tick 0
(DESIGN CHOICE, log entry 2). -/
def State.reset : State where
  state := 0x0#4
  clkMhzR := 0
  zeroHi := 0
  zeroLo := 0
  oneHi := 0
  oneLo := 0
  patternsValid := false
  raw := 0
  voltage := 0
  red := 0
  green := 0
  blue := 0
  frame := []
  txSlot := 0
  txPhase := .high
  txCnt := 0
  paceCnt := 0
  fault := .noFault
  stim := []
  tick := 0

end Sys2Proof.Machine
end

