-- ==== Sys2Proof/Machine/Ops.lean ====
section
/-! DEFINITION. The named operations every meaning uses: access to the frame buffer (spec/20_memory.md), the input
ports (R10), the transition to the next operation (R23), the search of R123 and the hand-over of its result,
`raise Fault` (spec/60_exceptions.md R152), the reset tick (R170) and the end of a tick. -/

namespace Sys2Proof.Machine

/-! ### The frame buffer (R40, R41, R44) -/

/-- The contents of slot `k`; an unlisted slot reads (0, 0) (R28). -/
def Memory.slot : Memory → Nat → Slot
  | [], _ => Slot.zero
  | (a, x) :: m, k => if a = k then x else Memory.slot m k

/-- Slot `k` set to `x`, the list kept in canonical form: writing (0, 0) removes the entry. -/
def Memory.put : Memory → Nat → Slot → Memory
  | [], k, x => if x = Slot.zero then [] else [(k, x)]
  | (a, y) :: m, k, x =>
    if k < a then (if x = Slot.zero then (a, y) :: m else (k, x) :: (a, y) :: m)
    else if k = a then (if x = Slot.zero then m else (k, x) :: m)
    else (a, y) :: Memory.put m k x

/-- The canonical form from index `least` on: indices strictly rising and below 25, no entry (0, 0). -/
def Memory.wfFrom (least : Nat) : Memory → Bool
  | [] => true
  | (a, x) :: m =>
    decide (least ≤ a) && decide (a < Config.nSlots) && decide (x ≠ Slot.zero) && Memory.wfFrom (a + 1) m

/-- The frame buffer is in canonical form. -/
def Memory.wf (m : Memory) : Bool := Memory.wfFrom 0 m

/-- `MemRead(k, 1)` (R8, R40): defined for slots 0 to 24 only. -/
def memRead (m : Memory) (k : Nat) : Option Slot :=
  if k < Config.nSlots then some (m.slot k) else none

/-- `MemWrite(k, 1, x)` (R8, R40); every caller has `k` at most 24. -/
def memWrite (m : Memory) (k : Nat) (x : Slot) : Memory := m.put k x

/-- The duration of one phase of a slot (R122 `dur`). -/
def Slot.dur (x : Slot) : Phase → TickCount
  | .high => x.hi
  | .low => x.lo

/-! ### The input ports (R10, R69) -/

/-- The vector of the tick `j` ticks from now: listed in `stim`, or the environment's own (log entry 1). -/
def State.inputAt (s : State) (j : Nat) : Inputs := (s.stim[j]?).getD (Config.env (s.tick + j))

/-- The input ports in this tick. -/
def State.input (s : State) : Inputs := s.inputAt 0

/-- The end of a tick: the environment's next vector comes up. No register changes. -/
def State.endTick (s : State) : State := { s with stim := s.stim.tail, tick := s.tick + 1 }

/-! ### Transitions -/

/-- `state <- S` (R8, R23). -/
def goto (i : Instr) (s : State) : State := { s with state := encode i }

/-- `raise Fault(code)` (R152): the first fault is kept, HALT is next, nothing else is written. -/
def raiseFault (code : FaultCode) (s : State) : State :=
  { s with
    fault := if s.fault = .noFault then code else s.fault
    state := encode .halt }

/-- A reset tick (R170): every register takes its R28 value; the environment's vectors go on. This is the one return
from HALT (R157). -/
def resetTick (s : State) : State := { State.reset with stim := s.stim, tick := s.tick }

/-! ### The search for the next sendable phase (R123) -/

/-- `After(s, ph)` (R123). -/
def after (s : Nat) : Phase → Nat × Phase
  | .high => (s, .low)
  | .low => (s + 1, .high)

/-- The loop of `Seek` (R123), for at most `fuel` positions. Past slot 24 it answers END(24) (log entry 6). -/
def seekLoop (m : Memory) : Nat → Nat → Phase → SeekResult
  | 0, _, _ => .ended Config.terminator
  | fuel + 1, s, ph =>
    if Config.nSlots ≤ s then .ended Config.terminator
    else if m.slot s = Slot.zero then .ended s
    else if 0 < ((m.slot s).dur ph).toNat then .position s ph
    else seekLoop m fuel (after s ph).1 (after s ph).2

/-- `Seek(F, s, ph)` (R123): there are 50 positions, and one more visit finds index 25. -/
def seek (m : Memory) (s : Nat) (ph : Phase) : SeekResult := seekLoop m 51 s ph

/-- The transition on a search result, the same in ENCODE (R91) and TX (R124). -/
def handOver (p : SeekResult) (s : State) : State :=
  match p with
  | .ended k => { s with txSlot := BitVec.ofNat 5 k, txPhase := .high, state := encode .txEnd }
  | .position k ph => { s with txSlot := BitVec.ofNat 5 k, txPhase := ph, state := encode .tx }

end Sys2Proof.Machine
end

