-- ==== Sys2Proof/Machine/Operands.lean ====
section
/-! DEFINITION. What the operations compute from their operands: tick counts (R80), the voltage (R103), the colour
(R106), the slots of a frame (R64, R90) and the pace length (R141). All on naturals (R7); R38 says that each result
fits its register. -/

namespace Sys2Proof.Machine

/-- `(ns * f) div 1000`: the ticks of a phase of `ns` nanoseconds at `f` MHz (R80). -/
def ticksOf (ns f : Nat) : Nat := ns * f / 1000

/-- `clamp(x, lo, hi)` (R7). -/
def clamp (x lo hi : Nat) : Nat := min (max x lo) hi

/-- `(raw * 3300) div 4095` (R103). -/
def millivoltsOf (raw : Nat) : Nat := raw * Config.vrefMv / Config.adcMax

/-- `(510 * x + 2300) div 4600`: 255 x / 2300 rounded half up (R106, R107). -/
def channelOf (x : Nat) : Nat :=
  (2 * 255 * x + (Config.vHiMv - Config.vLoMv)) / (2 * (Config.vHiMv - Config.vLoMv))

/-- The clamped voltage `vc` of R106. -/
def clampedMv (mv : Nat) : Nat := clamp mv Config.vLoMv Config.vHiMv

/-- The red channel of a voltage (R106). -/
def redOf (mv : Nat) : Nat := channelOf (Config.vHiMv - clampedMv mv)

/-- The blue channel of a voltage (R106). -/
def blueOf (mv : Nat) : Nat := channelOf (clampedMv mv - Config.vLoMv)

/-- `10000 * clk_mhz_r`: the pace length in ticks (R141). -/
def paceTicks (f : Nat) : Nat := Config.paceUs * f

/-- ZP (R90). -/
def zeroPattern (s : State) : Slot := ⟨s.zeroHi, s.zeroLo⟩

/-- OP (R90). -/
def onePattern (s : State) : Slot := ⟨s.oneHi, s.oneLo⟩

/-- `channel(c)`: green, red, blue (R64). -/
def channel (s : State) (c : Nat) : Channel :=
  match c with
  | 0 => s.green
  | 1 => s.red
  | _ => s.blue

/-- `sel(k)`: the colour bit of data slot `k` (R64). -/
def sel (s : State) (k : Nat) : Bool := (channel s (k / 8)).getLsbD (7 - k % 8)

/-- `slot(k)`: the contents ENCODE gives slot `k` (R64). -/
def slotOperand (s : State) (k : Nat) : Slot :=
  if k < Config.terminator then (if sel s k then onePattern s else zeroPattern s) else Slot.zero

/-- The frame ENCODE writes: slots 0 to 24, over the old contents (R90). -/
def encodedFrame (s : State) : Memory :=
  (List.range Config.nSlots).foldl (fun m k => memWrite m k (slotOperand s k)) s.frame

/-- The duration of the phase TX is sending, `dur(tx_slot, tx_phase)` (R122, R124): a read of slot `tx_slot`. -/
def currentDur (s : State) : Option TickCount :=
  (memRead s.frame s.txSlot.toNat).map (·.dur s.txPhase)

end Sys2Proof.Machine
end

