-- ==== Sys2Proof/Machine/Bringup.lean ====
section
/-! DEFINITION. RST_WAIT (spec/70_reset_and_hazards.md R172). -/

namespace Sys2Proof.Machine

/-- RST_WAIT (R172): `init_fail` wins over `cfg_valid` (R156). -/
def execRstWait (s : State) : Host.Outcome State Fault Refusal :=
  if s.input.initFail then .next (raiseFault .initFail s)
  else if s.input.cfgValid then .next (goto .calculate { s with clkMhzR := s.input.clockMhz })
  else .next (goto .rstWait s)

end Sys2Proof.Machine
end

