-- ==== Sys2Proof/Machine/FaultStates.lean ====
section
/-! DEFINITION. HALT and the reserved codes (spec/60_exceptions.md R153, R155). -/

namespace Sys2Proof.Machine

/-- HALT (R153): only `rst` leaves it, which the step handles. -/
def execHalt (s : State) : Host.Outcome State Fault Refusal := .next (goto .halt s)

/-- Codes 0xA and 0xB (R155). -/
def execReservedAB (s : State) : Host.Outcome State Fault Refusal := .next (raiseFault .illegalState s)

/-- Codes 0xC and 0xD (R155). -/
def execReservedCD (s : State) : Host.Outcome State Fault Refusal := .next (raiseFault .illegalState s)

/-- Code 0xE (R155). -/
def execReservedE (s : State) : Host.Outcome State Fault Refusal := .next (raiseFault .illegalState s)

end Sys2Proof.Machine
end

