-- ==== Sys2Proof/Machine/FrameEncoder.lean ====
section
/-! DEFINITION. ENCODE, the frame encoder (spec/41_frame_encoder.md R90, R91). -/

namespace Sys2Proof.Machine

/-- ENCODE (R90): the 25 slots at once; the search runs over the values this tick writes (R91 `frame'`). -/
def execEncode (s : State) : Host.Outcome State Fault Refusal :=
  .next (handOver (seek (encodedFrame s) 0 .high) { s with frame := encodedFrame s, txCnt := 0 })

end Sys2Proof.Machine
end

