-- ==== Sys2Proof/Machine/PulseTiming.lean ====
section
/-! DEFINITION. CALC, the pulse-timing calculator (spec/40_pulse_timing.md R80). -/

namespace Sys2Proof.Machine

/-- CALC (R80). -/
def execCalc (s : State) : Host.Outcome State Fault Refusal :=
  .next (goto .sample
    { s with
      zeroHi := BitVec.ofNat 16 (ticksOf Config.t0hNs s.clkMhzR.toNat)
      zeroLo := BitVec.ofNat 16 (ticksOf Config.t0lNs s.clkMhzR.toNat)
      oneHi := BitVec.ofNat 16 (ticksOf Config.t1hNs s.clkMhzR.toNat)
      oneLo := BitVec.ofNat 16 (ticksOf Config.t1lNs s.clkMhzR.toNat)
      patternsValid := true })

end Sys2Proof.Machine
end

