-- ==== Sys2Proof/Machine/ReportPace.lean ====
section
/-! DEFINITION. REPORT and PACE (spec/44_report_pace.md R140, R143). -/

namespace Sys2Proof.Machine

/-- REPORT (R140); the tuple itself is on the output ports of this tick (R11). -/
def execReport (s : State) : Host.Outcome State Fault Refusal :=
  .next (goto .pace { s with paceCnt := BitVec.ofNat 32 (paceTicks s.clkMhzR.toNat) })

/-- PACE (R143). Its waiting branch names no successor; R23 has every tick write one, and R61 says PACE (log entry 9). -/
def execPace (s : State) : Host.Outcome State Fault Refusal :=
  if s.paceCnt.toNat ≤ 1 then .next (goto .sample { s with paceCnt := 0 })
  else .next (goto .pace { s with paceCnt := BitVec.ofNat 32 (s.paceCnt.toNat - 1) })

end Sys2Proof.Machine
end

