-- ==== Sys2Proof/Machine/SenseMap.lean ====
section
/-! DEFINITION. SAMPLE, CONVERT and MAP (spec/42_sense_map.md R100, R103, R106). -/

namespace Sys2Proof.Machine

/-- SAMPLE (R100): not ready is a retry, not a fault (R101). -/
def execSample (s : State) : Host.Outcome State Fault Refusal :=
  if s.input.adcValid then .next (goto .convert { s with raw := s.input.adcData })
  else .next (goto .sample s)

/-- CONVERT (R103). -/
def execConvert (s : State) : Host.Outcome State Fault Refusal :=
  .next (goto .map { s with voltage := BitVec.ofNat 12 (millivoltsOf s.raw.toNat) })

/-- MAP (R106). -/
def execMap (s : State) : Host.Outcome State Fault Refusal :=
  .next (goto .encode
    { s with
      red := BitVec.ofNat 8 (redOf s.voltage.toNat)
      blue := BitVec.ofNat 8 (blueOf s.voltage.toNat)
      green := 0 })

end Sys2Proof.Machine
end

