-- ==== Sys2Proof/Machine/Transmit.lean ====
section
/-! DEFINITION. TX and TX_END, the transmit sequencer (spec/43_transmit.md R124, R126), and the waveform of a frame
(R121) that the sequencer's statements are about. -/

namespace Sys2Proof.Machine

/-- TX (R124): one tick of the waveform. The read of slot `tx_slot` stops where no such slot exists (R40; log entry 5). -/
def execTx (s : State) : Host.Outcome State Fault Refusal :=
  if s.input.txFault then .next (raiseFault .txFault s)
  else
    match currentDur s with
    | none => .fault (.noSuchSlot s.txSlot.toNat)
    | some d =>
      if s.txCnt.toNat + 1 < d.toNat then
        .next (goto .tx { s with txCnt := BitVec.ofNat 16 (s.txCnt.toNat + 1) })
      else
        let next := after s.txSlot.toNat s.txPhase
        .next (handOver (seek s.frame next.1 next.2) { s with txCnt := 0 })

/-- TX_END (R126). -/
def execTxEnd (s : State) : Host.Outcome State Fault Refusal :=
  if s.input.txFault then .next (raiseFault .txFault s) else .next (goto .report s)

/-- `e` of R121: the least slot index holding (0, 0), or 25 if none. -/
def endSlot (m : Memory) : Nat :=
  ((List.range Config.nSlots).find? (fun k => m.slot k == Slot.zero)).getD Config.nSlots

/-- The `dout` values of one slot: high, then low (R121). -/
def slotWave (x : Slot) : List Bool := List.replicate x.hi.toNat true ++ List.replicate x.lo.toNat false

/-- `W(frame)` (R121): the slots before `e`, in order. -/
def waveform (m : Memory) : List Bool := (List.range (endSlot m)).flatMap (fun k => slotWave (m.slot k))

end Sys2Proof.Machine
end

