-- ==== Sys2Proof/Machine/Dispatch.lean ====
section
/-! DEFINITION. One arm per operation of the sequencer (spec/30_encoding.md R60). -/

namespace Sys2Proof.Machine

def exec (i : Instr) (s : State) : Host.Outcome State Fault Refusal :=
  match i with
  | .rstWait => Sys2Proof.Machine.execRstWait s
  | .calculate => Sys2Proof.Machine.execCalc s
  | .sample => Sys2Proof.Machine.execSample s
  | .convert => Sys2Proof.Machine.execConvert s
  | .map => Sys2Proof.Machine.execMap s
  | .encode => Sys2Proof.Machine.execEncode s
  | .tx => Sys2Proof.Machine.execTx s
  | .txEnd => Sys2Proof.Machine.execTxEnd s
  | .report => Sys2Proof.Machine.execReport s
  | .pace => Sys2Proof.Machine.execPace s
  | .halt => Sys2Proof.Machine.execHalt s
  | .reservedAB _ => Sys2Proof.Machine.execReservedAB s
  | .reservedCD _ => Sys2Proof.Machine.execReservedCD s
  | .reservedE => Sys2Proof.Machine.execReservedE s

end Sys2Proof.Machine
end

