-- ==== Sys2Proof/Machine/Flags.lean ====
section
/-! DEFINITION. The block has no arithmetic flags (spec/10_state.md R24). Its single-bit status values, its output
ports (R11), the status word (R25) and the views of its data formats (R63, R65), all functions of the registers. -/

namespace Sys2Proof.Machine

/-- HIGH = 0, LOW = 1 (R20). -/
def Phase.bit : Phase → BitVec 1
  | .high => 0#1
  | .low => 1#1

/-- The 2-bit fault codes (R150). -/
def FaultCode.bits : FaultCode → BitVec 2
  | .noFault => 0#2
  | .initFail => 1#2
  | .txFault => 2#2
  | .illegalState => 3#2

/-- `halted` (R24). -/
def isHalted (s : State) : Bool := s.state == encode .halt

/-- `status = {clk_mhz_r, 0b00, tx_phase, tx_slot, fault, (state == HALT), patterns_valid, state}` (R25). -/
def statusWord (s : State) : BitVec 32 :=
  (s.clkMhzR ++ 0#2 ++ s.txPhase.bit ++ s.txSlot ++ s.fault.bits ++ BitVec.ofBool (isHalted s)
    ++ BitVec.ofBool s.patternsValid ++ s.state : BitVec (16 + 2 + 1 + 5 + 2 + 1 + 1 + 4))

/-- The output ports of a tick (R11): Moore outputs, of the registers alone. The report buses show their registers
in every state, the reserved ones too (log entry 7). -/
def outputs (s : State) : Outputs where
  dout := s.state == encode .tx && s.txPhase == .high
  adcReq := s.state == encode .sample
  rptValid := s.state == encode .report
  rptMv := s.voltage
  rptR := s.red
  rptG := s.green
  rptB := s.blue
  halted := isHalted s
  status := statusWord s

/-- The 32-bit view of a slot (R63). -/
def Slot.word (x : Slot) : BitVec 32 := (x.hi ++ x.lo : BitVec (16 + 16))

/-- The 36-bit view of the report tuple (R65). -/
def Outputs.reportWord (o : Outputs) : BitVec 36 :=
  (o.rptMv ++ o.rptR ++ o.rptG ++ o.rptB : BitVec (12 + 8 + 8 + 8))

end Sys2Proof.Machine
end

