-- ==== Sys2Proof/Machine/Stimulus.lean ====
section
/-! DEFINITION. The stimulus script in which programs and test vectors are written (spec/30_encoding.md R69 to R71):
the input word, the script's lines and their expansion into input vectors; and how a code and a script are placed in
a state. -/

namespace Sys2Proof.Machine

/-- The 32-bit input word of a vector (R69). -/
def inputWord (v : Inputs) : BitVec 32 :=
  (v.clockMhz ++ v.adcData ++ BitVec.ofBool v.txFault ++ BitVec.ofBool v.adcValid ++ BitVec.ofBool v.initFail
    ++ BitVec.ofBool v.cfgValid : BitVec (16 + 12 + 1 + 1 + 1 + 1))

/-- The vector of a `rst` line and an input word (R69). -/
def vectorOf (rst : Bool) (w : BitVec 32) : Inputs where
  rst := rst
  clockMhz := w.extractLsb' 16 16
  adcData := w.extractLsb' 4 12
  txFault := w.getLsbD 3
  adcValid := w.getLsbD 2
  initFail := w.getLsbD 1
  cfgValid := w.getLsbD 0

/-- A line of a stimulus script: the mnemonics of R70 and the pseudo-mnemonics of R71. -/
inductive StimLine where
  | rst
  | cfg (f : Megahertz)
  | ifl
  | adc (v : AdcCode)
  | flt
  | nop (n : Nat)
  | boot (f : Megahertz)
  | wait (n : Nat)
  | iter (v : AdcCode)
  deriving DecidableEq, Repr

/-- The vectors of a line, one per tick (R70, R71). -/
def StimLine.vectors : StimLine → List Inputs
  | .rst => [{ rst := true }]
  | .cfg f => [{ cfgValid := true, clockMhz := f }]
  | .ifl => [{ initFail := true }]
  | .adc v => [{ adcValid := true, adcData := v }]
  | .flt => [{ txFault := true }]
  | .nop n => List.replicate n {}
  | .boot f => [{ rst := true }, { cfgValid := true, clockMhz := f }, {}]
  | .wait n => List.replicate n {}
  | .iter v => [{ adcValid := true, adcData := v }]

/-- A script is read one line after another (R70). -/
def scriptVectors (script : List StimLine) : List Inputs := script.flatMap StimLine.vectors

/-- `s` with the script's vectors as the environment's next ones. -/
def State.withScript (s : State) (script : List StimLine) : State := { s with stim := scriptVectors script }

/-- `s` with `w` in `state` and with this tick's vector listed and free of `rst`: the vector `stim` lists, else the
`NOP` vector (log entry 3). -/
def placeCode (s : State) (_nbits w : Nat) : State :=
  { s with
    state := BitVec.ofNat 4 w
    stim := { s.stim.headD {} with rst := false } :: s.stim.tail }

end Sys2Proof.Machine
end

