-- ==== Sys2Proof/Machine/Step.lean ====
section
/-! DEFINITION. One step is one tick of `clk` (spec/00_scope.md R9): `rst` first (R156, R170), else the operation
whose code `state` holds (R12, R60); then the environment's next vector comes up. -/

namespace Sys2Proof.Machine

def step (s : State) : Host.Outcome State Fault Refusal :=
  if s.input.rst then .next (resetTick s).endTick
  else
    match exec (decode s.state) s with
    | .next t => .next t.endTick
    | .fault r => .fault r
    | .refused r => .refused r

/-- `s` with the code `w` in `state` and a tick that is no reset tick (log entry 3). -/
def State.withFetchWord (s : State) (nbits w : Nat) : State := placeCode s nbits w

end Sys2Proof.Machine
end

