-- ==== Sys2Proof/Machine/Observe.lean ====
section
/-! DEFINITION. How a run is reported (spec/30_encoding.md R72): the state code and `dout` of each tick, gathered into
ranges of ticks, and the registers at the end. -/

namespace Sys2Proof.Machine

/-- One line of a run's report: ticks `first` to `last` with one state code and one `dout` value (R72). -/
structure RunLine where
  first : Nat
  last : Nat
  code : StateCode
  dout : Bool
  deriving DecidableEq, Repr

/-- A tick added to a report whose newest line stands first. -/
def addTick (lines : List RunLine) (t : Nat) (s : State) : List RunLine :=
  match lines with
  | [] => [⟨t, t, s.state, (outputs s).dout⟩]
  | l :: rest =>
    if l.code = s.state ∧ l.dout = (outputs s).dout then { l with last := t } :: rest
    else ⟨t, t, s.state, (outputs s).dout⟩ :: l :: rest

/-- The report of `n` ticks from `s`, the first of them numbered `t`, and the state at their end (R72). A run that
stops is reported up to its stop. -/
def observeFrom : Nat → Nat → List RunLine → State → List RunLine × State
  | 0, _, lines, s => (lines.reverse, s)
  | n + 1, t, lines, s =>
    match step s with
    | .next s' => observeFrom n (t + 1) (addTick lines t s) s'
    | .fault _ => ((addTick lines t s).reverse, s)
    | .refused _ => ((addTick lines t s).reverse, s)

/-- The report of `n` ticks from `s`, numbered from 0 (R72). -/
def observe (n : Nat) (s : State) : List RunLine × State := observeFrom n 0 [] s

end Sys2Proof.Machine
end

