-- ==== Sys2Proof/Safety.lean ====
section
/-! DEFINITION. The terms in which claims about runs are made: runs of ticks, the environment's named premises
(spec/92_eei_decisions.md D28), which inputs a state samples (spec/10_state.md R10), the transmit position (R122),
and the invariant of the states a run from reset reaches. A safe run is one that neither faults nor refuses. -/

namespace Sys2Proof.Machine

/-- The next state of an outcome, if it has one. -/
def nextOf : Host.Outcome State Fault Refusal → Option State
  | .next t => some t
  | .fault _ => none
  | .refused _ => none

/-- `n` ticks from `s`, up to the first stop: the host's run of the machine, over the model's own types. -/
def run : Nat → State → Host.Outcome State Fault Refusal
  | 0, s => .next s
  | n + 1, s =>
    match step s with
    | .next t => run n t
    | .fault r => .fault r
    | .refused r => .refused r

/-- Every field of `t` but `stim` and `tick` is that of `s`: no register of the block differs. -/
def SameRegisters (s t : State) : Prop := t = { s with stim := t.stim, tick := t.tick }

/-- No reset in the next `n` ticks. -/
def NoReset (n : Nat) (s : State) : Prop := ∀ j < n, (s.inputAt j).rst = false

/-- In the next `n` ticks no channel fault where one is sampled, in TX and TX_END (R10). Elsewhere `tx_fault` is free. -/
def NoFaultWhileSending (n : Nat) (s : State) : Prop :=
  ∀ j < n, ∀ t, run j s = .next t → t.state = encode .tx ∨ t.state = encode .txEnd → (s.inputAt j).txFault = false

/-- The ADC is not ready for `n` ticks and answers in the tick after them (R101, R111). -/
def AdcReadyAfter (n : Nat) (s : State) : Prop :=
  (∀ j < n, (s.inputAt j).adcValid = false) ∧ (s.inputAt n).adcValid = true

/-- The premise `adc_answers` of D28 with a bound: in the next `horizon` ticks, wherever the block is in SAMPLE, the ADC
is ready within `limit` ticks more. Elsewhere `adc_valid` is free. -/
def AdcAnswersWithin (limit horizon : Nat) (s : State) : Prop :=
  ∀ j, j + limit < horizon → ∀ t, run j s = .next t → t.state = encode .sample →
    ∃ n, j ≤ n ∧ n ≤ j + limit ∧ (s.inputAt n).adcValid = true

/-- Two vectors agree on every port the operation `i` samples (R10). -/
def AgreeOnSampled (i : Instr) (v w : Inputs) : Prop :=
  v.rst = w.rst ∧
  match i with
  | .rstWait => v.initFail = w.initFail ∧ v.cfgValid = w.cfgValid ∧ (v.cfgValid = true → v.clockMhz = w.clockMhz)
  | .sample => v.adcValid = w.adcValid ∧ (v.adcValid = true → v.adcData = w.adcData)
  | .tx | .txEnd => v.txFault = w.txFault
  | .calculate | .convert | .map | .encode | .report | .pace | .halt | .reservedAB _ | .reservedCD _ | .reservedE => True

/-- The transmit position names a phase before the frame's end, with ticks of it still to send (R122). -/
structure TxPosition (s : State) : Prop where
  before_end : s.txSlot.toNat < endSlot s.frame
  ticks_left : s.txCnt.toNat < ((s.frame.slot s.txSlot.toNat).dur s.txPhase).toNat

/-- The pattern registers hold the patterns of `clk_mhz_r` (R80). -/
structure HoldsPatterns (s : State) : Prop where
  zero_hi : s.zeroHi.toNat = 400 * s.clkMhzR.toNat / 1000
  zero_lo : s.zeroLo.toNat = 850 * s.clkMhzR.toNat / 1000
  one_hi : s.oneHi.toNat = 850 * s.clkMhzR.toNat / 1000
  one_lo : s.oneLo.toNat = 400 * s.clkMhzR.toNat / 1000

/-- The operations that come after CALC in a run. -/
def afterCalc : Instr → Bool
  | .sample | .convert | .map | .encode | .tx | .txEnd | .report | .pace => true
  | .rstWait | .calculate | .halt | .reservedAB _ | .reservedCD _ | .reservedE => false

/-- The operations at which `voltage` is the reading of this iteration. -/
def afterConvert : Instr → Bool
  | .map | .encode | .tx | .txEnd | .report | .pace => true
  | .rstWait | .calculate | .sample | .convert | .halt | .reservedAB _ | .reservedCD _ | .reservedE => false

/-- The operations at which the colour is that of this iteration. -/
def afterMap : Instr → Bool
  | .encode | .tx | .txEnd | .report | .pace => true
  | .rstWait | .calculate | .sample | .convert | .map | .halt | .reservedAB _ | .reservedCD _ | .reservedE => false

/-- The operations at which the frame is that of this iteration. -/
def afterEncode : Instr → Bool
  | .tx | .txEnd | .report | .pace => true
  | .rstWait | .calculate | .sample | .convert | .map | .encode | .halt | .reservedAB _ | .reservedCD _
  | .reservedE => false

/-- The invariant of the states a run from reset reaches. -/
structure Invariant (s : State) : Prop where
  /-- the frame buffer is in canonical form -/
  frame_canonical : s.frame.wf = true
  /-- no reserved code (R62) -/
  code_legal : (decode s.state).isReserved = false
  /-- R20, R45 -/
  slot_in_range : s.txSlot.toNat ≤ 24
  /-- R17, R38 -/
  voltage_in_range : s.voltage.toNat ≤ 3300
  /-- R18 -/
  green_zero : s.green = 0
  /-- R21, R38 -/
  pace_in_range : s.paceCnt.toNat ≤ 10000 * s.clkMhzR.toNat
  /-- a fault is recorded exactly in HALT (R152, R157) -/
  fault_iff_halt : s.fault ≠ .noFault ↔ s.state = encode .halt
  /-- R15, R80 -/
  patterns : s.patternsValid = true → HoldsPatterns s
  /-- before CALC nothing has been computed (R28, R84) -/
  before_calc : s.state = encode .rstWait ∨ s.state = encode .calculate → s.patternsValid = false ∧ s.frame = []
  /-- the frequency is latched by RST_WAIT (R13) -/
  before_latch : s.state = encode .rstWait → s.clkMhzR = 0
  /-- CALC has run (R84) -/
  calc_done : afterCalc (decode s.state) = true → s.patternsValid = true
  /-- each data slot is a pattern, the first eight the zero-pattern, unless no frame has been written (R92, R96) -/
  data_slots : s.frame = [] ∨ ∀ k < 24, s.frame.slot k = zeroPattern s ∨ (s.frame.slot k = onePattern s ∧ 8 ≤ k)
  /-- R45, R92 -/
  terminator_zero : s.frame.slot 24 = Slot.zero
  /-- R103 -/
  voltage_current : afterConvert (decode s.state) = true → s.voltage.toNat = s.raw.toNat * 3300 / 4095
  /-- R106 -/
  colour_current : afterMap (decode s.state) = true →
    s.red.toNat = redOf s.voltage.toNat ∧ s.blue.toNat = blueOf s.voltage.toNat
  /-- R47, R64 -/
  frame_current : afterEncode (decode s.state) = true → ∀ k < 25, s.frame.slot k = slotOperand s k
  /-- R122 -/
  tx_position : s.state = encode .tx → TxPosition s
  /-- R122: in TX_END `tx_slot` is where the search stopped -/
  tx_ended : s.state = encode .txEnd → s.txSlot.toNat = endSlot s.frame
  /-- between transmissions the position stands at the start of a phase -/
  tx_idle : s.state ≠ encode .tx → s.state ≠ encode .halt → s.txPhase = .high ∧ s.txCnt = 0

/-- The length of the waveform of the frames ENCODE writes at `f` MHz (R128). -/
def transmitTicks (f : Nat) : Nat := if 2 ≤ f then 24 * (400 * f / 1000 + 850 * f / 1000) else 0

/-- The ticks of PACE at `f` MHz (R143). -/
def paceLength (f : Nat) : Nat := max 1 (10000 * f)

/-- The ticks of one iteration with `n` not-ready ticks (R144). -/
def iterationTicks (n f : Nat) : Nat := (n + 1) + 3 + transmitTicks f + 1 + 1 + paceLength f

end Sys2Proof.Machine
end

