-- ==== Sys2Proof/Certificates/Slice0/Obligations.lean ====
section
/-! DEFINITION. The statements for the provers, as the numbered rules of spec/ make them. Result statements give the
next state of an operation and its frame: `t = { s with … }` names every register that may differ, and the frame
buffer is compared slot by slot. State codes are written out: 0x0 RST_WAIT, 0x1 CALC, 0x2 SAMPLE, 0x3 CONVERT,
0x4 MAP, 0x5 ENCODE, 0x6 TX, 0x7 TX_END, 0x8 REPORT, 0x9 PACE, 0xF HALT (R60). -/

open Sys2Proof Sys2Proof.Machine

/-! ### Codes and the step -/

/-- R62: each code selects one row, decoding and encoding agree, the reserved codes are 0xA to 0xE, and no transition
writes a reserved code; a reserved code still has its meaning, so the step answers. -/
def Obligations.EveryCodeSelectsOneOperation : Prop :=
  (∀ c : StateCode, ∃! i : Instr, i.wf = true ∧ encode i = c) ∧
  (∀ c : StateCode, (decode c).wf = true ∧ encode (decode c) = c) ∧
  (∀ i : Instr, i.wf = true → decode (encode i) = i) ∧
  (∀ c : StateCode, (decode c).isReserved = true ↔ 0xA ≤ c.toNat ∧ c.toNat ≤ 0xE) ∧
  (∀ s t : State, step s = .next t → (decode t.state).isReserved = false) ∧
  (∀ s : State, (decode s.state).isReserved = true → ∃ t, step s = .next t)

/-- The opcode table's codes (R60), written out bit by bit; and a byte that is no code is refused, which is the model's
reading (log entry 12). -/
def Obligations.TableCodesDecode : Prop :=
  decodeTableWord 8 0b0000 = some .rstWait ∧ decodeTableWord 8 0b0001 = some .calculate ∧
  decodeTableWord 8 0b0010 = some .sample ∧ decodeTableWord 8 0b0011 = some .convert ∧
  decodeTableWord 8 0b0100 = some .map ∧ decodeTableWord 8 0b0101 = some .encode ∧
  decodeTableWord 8 0b0110 = some .tx ∧ decodeTableWord 8 0b0111 = some .txEnd ∧
  decodeTableWord 8 0b1000 = some .report ∧ decodeTableWord 8 0b1001 = some .pace ∧
  decodeTableWord 8 0b1010 = some (.reservedAB 0b1010#4) ∧ decodeTableWord 8 0b1011 = some (.reservedAB 0b1011#4) ∧
  decodeTableWord 8 0b1100 = some (.reservedCD 0b1100#4) ∧ decodeTableWord 8 0b1101 = some (.reservedCD 0b1101#4) ∧
  decodeTableWord 8 0b1110 = some .reservedE ∧ decodeTableWord 8 0b1111 = some .halt ∧
  decodeTableWord 8 0b10000 = none

/-- A tick without `rst` runs the operation whose code `state` holds, and then only brings up the environment's next
vector: no register changes at the end of the tick. -/
def Obligations.StepRunsTheDecodedOperation : Prop :=
  (∀ (s : State) (i : Instr), s.input.rst = false → decode s.state = i →
    step s = match exec i s with
      | .next t => .next t.endTick
      | .fault r => .fault r
      | .refused r => .refused r) ∧
  (∀ t : State, SameRegisters t t.endTick ∧ ∀ j, t.endTick.inputAt j = t.inputAt (j + 1))

/-- R170, with the values of R28; and the outputs, in a reset tick as in any, do not depend on the inputs. -/
def Obligations.ResetTickWritesEveryRegister : Prop :=
  (∀ s : State, s.input.rst = true → ∃ t, step s = .next t ∧
    t.state = 0x0#4 ∧ t.clkMhzR = 0 ∧ t.zeroHi = 0 ∧ t.zeroLo = 0 ∧ t.oneHi = 0 ∧ t.oneLo = 0 ∧
    t.patternsValid = false ∧ t.raw = 0 ∧ t.voltage = 0 ∧ t.red = 0 ∧ t.green = 0 ∧ t.blue = 0 ∧
    (∀ k < 25, memRead t.frame k = some ⟨0, 0⟩) ∧
    t.txSlot = 0 ∧ t.txPhase = .high ∧ t.txCnt = 0 ∧ t.paceCnt = 0 ∧ t.fault = .noFault ∧
    SameRegisters State.reset t ∧
    outputs t = ⟨false, false, false, 0, 0, 0, 0, false, 0⟩) ∧
  (∀ (s : State) (vs : List Inputs) (n : Nat), outputs { s with stim := vs, tick := n } = outputs s)

/-! ### Results and frames of the operations -/

/-- R172. -/
def Obligations.RstWaitLatchesOrFaults : Prop :=
  ∀ s : State,
    (s.input.initFail = true →
      exec .rstWait s = .next
        { s with fault := if s.fault = .noFault then .initFail else s.fault, state := 0xF#4 }) ∧
    (s.input.initFail = false → s.input.cfgValid = true →
      exec .rstWait s = .next { s with clkMhzR := s.input.clockMhz, state := 0x1#4 }) ∧
    (s.input.initFail = false → s.input.cfgValid = false → exec .rstWait s = .next { s with state := 0x0#4 })

/-- R80. -/
def Obligations.CalcComputesPatterns : Prop :=
  ∀ s : State, ∃ t, exec .calculate s = .next t ∧
    t.zeroHi.toNat = 400 * s.clkMhzR.toNat / 1000 ∧ t.zeroLo.toNat = 850 * s.clkMhzR.toNat / 1000 ∧
    t.oneHi.toNat = 850 * s.clkMhzR.toNat / 1000 ∧ t.oneLo.toNat = 400 * s.clkMhzR.toNat / 1000 ∧
    t.patternsValid = true ∧ t.state = 0x2#4 ∧
    t = { s with zeroHi := t.zeroHi, zeroLo := t.zeroLo, oneHi := t.oneHi, oneLo := t.oneLo,
                 patternsValid := t.patternsValid, state := t.state } ∧
    ∀ k, memRead t.frame k = memRead s.frame k

/-- R100. -/
def Obligations.SampleLatchesOrRetries : Prop :=
  ∀ s : State,
    (s.input.adcValid = true → exec .sample s = .next { s with raw := s.input.adcData, state := 0x3#4 }) ∧
    (s.input.adcValid = false → exec .sample s = .next { s with state := 0x2#4 }) ∧
    (s.state = 0x2#4 → (outputs s).adcReq = true)

/-- R103: the exact quotient truncated once, and every voltage from 0 to 3300 mV is the result of some code. -/
def Obligations.ConvertTruncatesTheExactVoltage : Prop :=
  (∀ s : State, ∃ t, exec .convert s = .next t ∧
    t.voltage.toNat = s.raw.toNat * 3300 / 4095 ∧
    (t.voltage.toNat : ℤ) = ⌊(s.raw.toNat : ℚ) / 4095 * 3300⌋ ∧ t.state = 0x4#4 ∧
    t = { s with voltage := t.voltage, state := t.state } ∧ ∀ k, memRead t.frame k = memRead s.frame k) ∧
  (∀ mv, mv ≤ 3300 → ∃ s t : State, exec .convert s = .next t ∧ t.voltage.toNat = mv)

/-- R106. -/
def Obligations.MapComputesColour : Prop :=
  ∀ s : State, ∃ t, exec .map s = .next t ∧
    t.red.toNat = (510 * (2800 - min (max s.voltage.toNat 500) 2800) + 2300) / 4600 ∧
    t.blue.toNat = (510 * (min (max s.voltage.toNat 500) 2800 - 500) + 2300) / 4600 ∧
    t.green = 0 ∧ t.state = 0x5#4 ∧
    t = { s with red := t.red, green := t.green, blue := t.blue, state := t.state } ∧
    ∀ k, memRead t.frame k = memRead s.frame k

/-- R107 (derived in the spec from R106): the integer form is the source's formula on exact rationals, rounded half up.
-/
def Obligations.MapIsTheRoundedInterpolation : Prop :=
  ∀ s t : State, exec .map s = .next t →
    let x : ℚ := min (max (((s.voltage.toNat : ℚ) - 500) / (2800 - 500)) 0) 1
    (t.red.toNat : ℤ) = ⌊255 * (1 - x) + 1 / 2⌋ ∧ (t.blue.toNat : ℤ) = ⌊255 * x + 1 / 2⌋

/-- R90: bit `b` of green, red and blue goes to slot `7 - b`, `15 - b` and `23 - b`, as the pattern it selects; slot 24
is the terminator. All 25 slots are written, so no slot keeps its contents. That the buffer is in canonical form, before
and after, is the model's choice of data for it (log entry 4). -/
def Obligations.EncodeWritesTheFrame : Prop :=
  ∀ s : State, s.frame.wf = true → ∃ t, exec .encode s = .next t ∧
    (∀ b < 8,
      memRead t.frame (7 - b) =
        some (if s.green.getLsbD b then ⟨s.oneHi, s.oneLo⟩ else ⟨s.zeroHi, s.zeroLo⟩) ∧
      memRead t.frame (15 - b) =
        some (if s.red.getLsbD b then ⟨s.oneHi, s.oneLo⟩ else ⟨s.zeroHi, s.zeroLo⟩) ∧
      memRead t.frame (23 - b) =
        some (if s.blue.getLsbD b then ⟨s.oneHi, s.oneLo⟩ else ⟨s.zeroHi, s.zeroLo⟩)) ∧
    memRead t.frame 24 = some ⟨0, 0⟩ ∧ t.frame.wf = true ∧
    t = { s with frame := t.frame, txSlot := t.txSlot, txPhase := t.txPhase, txCnt := t.txCnt, state := t.state }

/-- R91: the hand-over on the search over the new frame, and, as R91 derives it from R83 and R123, what it is for the
patterns CALC computes. -/
def Obligations.EncodeHandsOver : Prop :=
  (∀ s : State, ∃ t, exec .encode s = .next t ∧ t.txCnt = 0 ∧
    (∀ k, seek t.frame 0 .high = .ended k → t.txSlot.toNat = k ∧ t.txPhase = .high ∧ t.state = 0x7#4) ∧
    (∀ k ph, seek t.frame 0 .high = .position k ph → t.txSlot.toNat = k ∧ t.txPhase = ph ∧ t.state = 0x6#4)) ∧
  (∀ s t : State, s.frame.wf = true → HoldsPatterns s → exec .encode s = .next t →
    (2 ≤ s.clkMhzR.toNat → t.txSlot = 0 ∧ t.state = 0x6#4) ∧
    (s.clkMhzR.toNat ≤ 1 → seek t.frame 0 .high = .ended 0 ∧ t.txSlot = 0 ∧ t.state = 0x7#4 ∧
      waveform t.frame = []))

/-- R123: the search answers the first position, in the order (s, HIGH), (s, LOW), (s + 1, HIGH), …, that is the
terminator or has a phase to send; END(24) past the last slot. -/
def Obligations.SeekFindsTheFirstSendablePhase : Prop :=
  ∀ (m : Memory) (s : Nat) (ph : Phase), s ≤ 25 →
    let index : Nat → Phase → Nat := fun k p => 2 * k + p.bit.toNat
    (∀ k p, seek m s ph = .position k p →
      k < 25 ∧ index s ph ≤ index k p ∧ m.slot k ≠ ⟨0, 0⟩ ∧ 0 < ((m.slot k).dur p).toNat ∧
      ∀ j q, index s ph ≤ index j q → index j q < index k p →
        m.slot j ≠ ⟨0, 0⟩ ∧ ((m.slot j).dur q).toNat = 0) ∧
    (∀ e, seek m s ph = .ended e →
      e ≤ 24 ∧
      ((s ≤ e ∧ m.slot e = ⟨0, 0⟩ ∧
          ∀ j q, index s ph ≤ index j q → j < e → m.slot j ≠ ⟨0, 0⟩ ∧ ((m.slot j).dur q).toNat = 0) ∨
        (e = 24 ∧
          ∀ j q, index s ph ≤ index j q → j < 25 → m.slot j ≠ ⟨0, 0⟩ ∧ ((m.slot j).dur q).toNat = 0)))

/-- R124: the fault, a tick inside a phase, and a phase's last tick. `tx_slot` holds no value above 24 (R45); such a
value is the subject of `TxOutsideTheFrameStops`. -/
def Obligations.TxSendsOneTick : Prop :=
  ∀ s : State,
    (s.state = 0x6#4 → (outputs s).dout = decide (s.txPhase = .high)) ∧
    (s.input.txFault = true →
      exec .tx s = .next
        { s with fault := if s.fault = .noFault then .txFault else s.fault, state := 0xF#4 }) ∧
    (s.input.txFault = false → s.txSlot.toNat ≤ 24 → ∃ t, exec .tx s = .next t ∧
      (s.txCnt.toNat + 1 < ((s.frame.slot s.txSlot.toNat).dur s.txPhase).toNat →
        t.txCnt.toNat = s.txCnt.toNat + 1 ∧ t.state = 0x6#4 ∧ t = { s with txCnt := t.txCnt, state := t.state }) ∧
      (((s.frame.slot s.txSlot.toNat).dur s.txPhase).toNat ≤ s.txCnt.toNat + 1 →
        t.txCnt = 0 ∧
        (∀ k, seek s.frame (after s.txSlot.toNat s.txPhase).1 (after s.txSlot.toNat s.txPhase).2 = .ended k →
          t.txSlot.toNat = k ∧ t.txPhase = .high ∧ t.state = 0x7#4) ∧
        (∀ k ph, seek s.frame (after s.txSlot.toNat s.txPhase).1 (after s.txSlot.toNat s.txPhase).2 = .position k ph →
          t.txSlot.toNat = k ∧ t.txPhase = ph ∧ t.state = 0x6#4)) ∧
      t = { s with txSlot := t.txSlot, txPhase := t.txPhase, txCnt := t.txCnt, state := t.state } ∧
      ∀ k, memRead t.frame k = memRead s.frame k)

/-- The model's choice (log entry 5): a TX tick whose `tx_slot` names no slot of the frame buffer stops by name. -/
def Obligations.TxOutsideTheFrameStops : Prop :=
  ∀ s : State, s.input.txFault = false → 24 < s.txSlot.toNat →
    memRead s.frame s.txSlot.toNat = none ∧ exec .tx s = .fault (.noSuchSlot s.txSlot.toNat)

/-- R126. -/
def Obligations.TxEndConfirmsOrFaults : Prop :=
  ∀ s : State,
    (s.state = 0x7#4 → (outputs s).dout = false) ∧
    (s.input.txFault = true →
      exec .txEnd s = .next
        { s with fault := if s.fault = .noFault then .txFault else s.fault, state := 0xF#4 }) ∧
    (s.input.txFault = false → exec .txEnd s = .next { s with state := 0x8#4 })

/-- R140. -/
def Obligations.ReportPresentsAndLoadsThePace : Prop :=
  ∀ s : State,
    (s.state = 0x8#4 → (outputs s).rptValid = true ∧ (outputs s).rptMv = s.voltage ∧ (outputs s).rptR = s.red ∧
      (outputs s).rptG = s.green ∧ (outputs s).rptB = s.blue) ∧
    ∃ t, exec .report s = .next t ∧ t.paceCnt.toNat = 10000 * s.clkMhzR.toNat ∧ t.state = 0x9#4 ∧
      t = { s with paceCnt := t.paceCnt, state := t.state } ∧ ∀ k, memRead t.frame k = memRead s.frame k

/-- R143: one tick of PACE, and the number of ticks it lasts. -/
def Obligations.PaceCountsDown : Prop :=
  (∀ s : State, ∃ t, exec .pace s = .next t ∧
    (s.paceCnt.toNat ≤ 1 → t.paceCnt = 0 ∧ t.state = 0x2#4) ∧
    (1 < s.paceCnt.toNat → t.paceCnt.toNat = s.paceCnt.toNat - 1 ∧ t.state = 0x9#4) ∧
    t = { s with paceCnt := t.paceCnt, state := t.state } ∧ ∀ k, memRead t.frame k = memRead s.frame k) ∧
  (∀ s : State, s.state = 0x9#4 → NoReset (max 1 s.paceCnt.toNat) s →
    (∀ j < max 1 s.paceCnt.toNat, ∃ t, run j s = .next t ∧ t.state = 0x9#4) ∧
    ∃ t, run (max 1 s.paceCnt.toNat) s = .next t ∧
      SameRegisters { s with paceCnt := 0, state := 0x2#4 } t)

/-- R153. -/
def Obligations.HaltStays : Prop :=
  ∀ s : State,
    exec .halt s = .next { s with state := 0xF#4 } ∧
    (s.state = 0xF#4 → (outputs s).halted = true ∧ (outputs s).dout = false ∧ (outputs s).adcReq = false ∧
      (outputs s).rptValid = false)

/-- R155: a reserved code raises ILLEGAL_STATE. Of the outputs R155 says that all but `status` are 0, and R11 that the
report buses show their registers in every state: the four control outputs are 0 under both, and the clauses on the
report buses are the model's choice (log entry 7). -/
def Obligations.ReservedCodesFault : Prop :=
  ∀ s : State,
    (∀ i : Instr, i.isReserved = true →
      exec i s = .next
        { s with fault := if s.fault = .noFault then .illegalState else s.fault, state := 0xF#4 }) ∧
    ((decode s.state).isReserved = true → (outputs s).dout = false ∧ (outputs s).adcReq = false ∧
      (outputs s).rptValid = false ∧ (outputs s).halted = false ∧
      (outputs s).rptMv = s.voltage ∧ (outputs s).rptR = s.red ∧ (outputs s).rptG = s.green ∧ (outputs s).rptB = s.blue)

/-! ### Faults and the sequence -/

/-- R150: each code has its cause and no other, and the status word carries the code in bits 7:6. -/
def Obligations.FaultCodesHaveTheirCauses : Prop :=
  (∀ s t : State, step s = .next t → s.input.rst = false → s.fault = .noFault →
    (t.fault = .initFail ↔ s.state = 0x0#4 ∧ s.input.initFail = true) ∧
    (t.fault = .txFault ↔ (s.state = 0x6#4 ∨ s.state = 0x7#4) ∧ s.input.txFault = true) ∧
    (t.fault = .illegalState ↔ 0xA ≤ s.state.toNat ∧ s.state.toNat ≤ 0xE)) ∧
  (∀ s : State,
    (s.fault = .noFault → (statusWord s).extractLsb' 6 2 = 0#2) ∧
    (s.fault = .initFail → (statusWord s).extractLsb' 6 2 = 1#2) ∧
    (s.fault = .txFault → (statusWord s).extractLsb' 6 2 = 2#2) ∧
    (s.fault = .illegalState → (statusWord s).extractLsb' 6 2 = 3#2))

/-- R152: the tick that raises a fault enters HALT, keeps the first code, and writes nothing else; the status word
shows the position it struck at, and the tick's own `dout` is still that of TX. -/
def Obligations.FaultEntryIsPrecise : Prop :=
  ∀ (s : State) (c : FaultCode), s.input.rst = false →
    (s.state = 0x0#4 ∧ s.input.initFail = true ∧ c = .initFail ∨
      (s.state = 0x6#4 ∨ s.state = 0x7#4) ∧ s.input.txFault = true ∧ c = .txFault ∨
      0xA ≤ s.state.toNat ∧ s.state.toNat ≤ 0xE ∧ c = .illegalState) →
    ∃ t, step s = .next t ∧ t.state = 0xF#4 ∧
      (s.fault = .noFault → t.fault = c) ∧ (s.fault ≠ .noFault → t.fault = s.fault) ∧
      SameRegisters { s with state := t.state, fault := t.fault } t ∧
      (outputs t).halted = true ∧ (∀ k, memRead t.frame k = memRead s.frame k) ∧
      (statusWord t).extractLsb' 8 5 = s.txSlot ∧ (statusWord t).getLsbD 13 = decide (s.txPhase = .low) ∧
      (s.state = 0x6#4 → s.txPhase = .high → (outputs s).dout = true)

/-- R156: within a tick `rst` wins, then a fault over the state's other branches; otherwise the state's own rule applies
and records no fault. -/
def Obligations.PriorityWithinOneTick : Prop :=
  ∀ s : State,
    (s.input.rst = true → ∃ t, step s = .next t ∧ SameRegisters State.reset t) ∧
    (s.input.rst = false → s.state = 0x0#4 → s.input.initFail = true →
      ∃ t, step s = .next t ∧ SameRegisters (raiseFault .initFail s) t ∧ t.clkMhzR = s.clkMhzR) ∧
    (s.input.rst = false → s.state = 0x6#4 ∨ s.state = 0x7#4 → s.input.txFault = true →
      ∃ t, step s = .next t ∧ SameRegisters (raiseFault .txFault s) t ∧ t.txSlot = s.txSlot ∧
        t.txPhase = s.txPhase ∧ t.txCnt = s.txCnt) ∧
    (s.input.rst = false → (s.state = 0x0#4 → s.input.initFail = false) →
      (s.state = 0x6#4 ∨ s.state = 0x7#4 → s.input.txFault = false) → (decode s.state).isReserved = false →
      s.txSlot.toNat ≤ 24 → ∃ t, exec (decode s.state) s = .next t ∧ step s = .next t.endTick ∧ t.fault = s.fault)

/-- R22: `fault` keeps the first code, changes only on entry to HALT, and is cleared by reset alone. -/
def Obligations.FirstFaultIsKept : Prop :=
  ∀ s t : State, step s = .next t →
    (s.input.rst = true → t.fault = .noFault) ∧
    (s.input.rst = false → s.fault ≠ .noFault → t.fault = s.fault) ∧
    (s.input.rst = false → t.fault ≠ s.fault → t.state = 0xF#4)

/-- R61: the successor table. The conditions of ENCODE and TX are those of the search (R91, R124). -/
def Obligations.SuccessorTable : Prop :=
  ∀ s : State, s.txSlot.toNat ≤ 24 → ∃ t, step s = .next t ∧
    (s.input.rst = true → t.state = 0x0#4) ∧
    (s.input.rst = false →
      (s.state = 0x0#4 → t.state = if s.input.initFail then 0xF#4 else if s.input.cfgValid then 0x1#4 else 0x0#4) ∧
      (s.state = 0x1#4 → t.state = 0x2#4) ∧
      (s.state = 0x2#4 → t.state = if s.input.adcValid then 0x3#4 else 0x2#4) ∧
      (s.state = 0x3#4 → t.state = 0x4#4) ∧
      (s.state = 0x4#4 → t.state = 0x5#4) ∧
      (s.state = 0x5#4 →
        ((∃ k ph, k ≤ 24 ∧ 0 < ((t.frame.slot k).dur ph).toNat ∧ ∀ j ≤ k, t.frame.slot j ≠ ⟨0, 0⟩) → t.state = 0x6#4) ∧
        ((¬ ∃ k ph, k ≤ 24 ∧ 0 < ((t.frame.slot k).dur ph).toNat ∧ ∀ j ≤ k, t.frame.slot j ≠ ⟨0, 0⟩) →
          t.state = 0x7#4)) ∧
      (s.state = 0x6#4 → s.input.txFault = true → t.state = 0xF#4) ∧
      (s.state = 0x6#4 → s.input.txFault = false →
        ((s.txCnt.toNat + 1 < ((s.frame.slot s.txSlot.toNat).dur s.txPhase).toNat ∨
            ∃ k ph, seek s.frame (after s.txSlot.toNat s.txPhase).1 (after s.txSlot.toNat s.txPhase).2
              = .position k ph) → t.state = 0x6#4) ∧
        ((((s.frame.slot s.txSlot.toNat).dur s.txPhase).toNat ≤ s.txCnt.toNat + 1 ∧
            ∃ k, seek s.frame (after s.txSlot.toNat s.txPhase).1 (after s.txSlot.toNat s.txPhase).2
              = .ended k) → t.state = 0x7#4)) ∧
      (s.state = 0x7#4 → t.state = if s.input.txFault then 0xF#4 else 0x8#4) ∧
      (s.state = 0x8#4 → t.state = 0x9#4) ∧
      (s.state = 0x9#4 → t.state = if 1 < s.paceCnt.toNat then 0x9#4 else 0x2#4) ∧
      (s.state = 0xF#4 → t.state = 0xF#4) ∧
      (0xA ≤ s.state.toNat → s.state.toNat ≤ 0xE → t.state = 0xF#4))

/-- R157: HALT holds, with every register, for as long as no reset comes; a reset leaves it. -/
def Obligations.HaltIsLeftByResetOnly : Prop :=
  (∀ (n : Nat) (s : State), s.state = 0xF#4 → NoReset n s → ∃ t, run n s = .next t ∧ SameRegisters s t) ∧
  (∀ s : State, s.state = 0xF#4 → s.input.rst = true → ∃ t, step s = .next t ∧ SameRegisters State.reset t)

/-- R10: two vectors that agree on the ports the state samples give the same tick. -/
def Obligations.UnsampledInputsHaveNoEffect : Prop :=
  ∀ (s : State) (v w : Inputs) (vs : List Inputs), AgreeOnSampled (decode s.state) v w →
    step { s with stim := v :: vs } = step { s with stim := w :: vs }

/-- R12 to R22: which operation may write each register. R20 names TX_END too among the writers of the transmit
position; that it writes none of it is the model's choice (log entry 8), after the rule of TX_END itself (R126). -/
def Obligations.EachRegisterHasItsWriters : Prop :=
  ∀ s t : State, step s = .next t → s.input.rst = false →
    (t.clkMhzR ≠ s.clkMhzR → s.state = 0x0#4) ∧
    (t.zeroHi ≠ s.zeroHi ∨ t.zeroLo ≠ s.zeroLo ∨ t.oneHi ≠ s.oneHi ∨ t.oneLo ≠ s.oneLo ∨
      t.patternsValid ≠ s.patternsValid → s.state = 0x1#4 ∧ t.patternsValid = true) ∧
    (t.raw ≠ s.raw → s.state = 0x2#4) ∧
    (t.voltage ≠ s.voltage → s.state = 0x3#4) ∧
    (t.red ≠ s.red ∨ t.green ≠ s.green ∨ t.blue ≠ s.blue → s.state = 0x4#4 ∧ t.green = 0) ∧
    ((∃ k, memRead t.frame k ≠ memRead s.frame k) → s.state = 0x5#4) ∧
    (t.txSlot ≠ s.txSlot ∨ t.txPhase ≠ s.txPhase ∨ t.txCnt ≠ s.txCnt → s.state = 0x5#4 ∨ s.state = 0x6#4) ∧
    (t.paceCnt ≠ s.paceCnt → s.state = 0x8#4 ∨ s.state = 0x9#4) ∧
    (t.fault ≠ s.fault → t.state = 0xF#4)

/-- R84 (derived in the spec from R61): CALC is reached from RST_WAIT alone, nothing returns to either but a reset, and
so the patterns hold. -/
def Obligations.CalcRunsOncePerReset : Prop :=
  (∀ s t : State, step s = .next t → s.input.rst = false → t.state = 0x0#4 ∨ t.state = 0x1#4 → s.state = 0x0#4) ∧
  (∀ (n : Nat) (s t : State), s.state ≠ 0x0#4 → s.state ≠ 0x1#4 → NoReset n s → run n s = .next t →
    t.clkMhzR = s.clkMhzR ∧ t.zeroHi = s.zeroHi ∧ t.zeroLo = s.zeroLo ∧ t.oneHi = s.oneHi ∧ t.oneLo = s.oneLo ∧
    t.patternsValid = s.patternsValid ∧ t.state ≠ 0x0#4 ∧ t.state ≠ 0x1#4)

/-! ### Outputs and words -/

/-- R11, R131. That the report buses show their registers in the reserved codes too, where R155 has every output but
`status` at 0, is the model's choice (log entry 7). -/
def Obligations.OutputsAreFunctionsOfTheRegisters : Prop :=
  ∀ s : State,
    ((outputs s).dout = true ↔ s.state = 0x6#4 ∧ s.txPhase = .high) ∧
    ((outputs s).adcReq = true ↔ s.state = 0x2#4) ∧
    ((outputs s).rptValid = true ↔ s.state = 0x8#4) ∧
    (outputs s).rptMv = s.voltage ∧ (outputs s).rptR = s.red ∧ (outputs s).rptG = s.green ∧
    (outputs s).rptB = s.blue ∧
    ((outputs s).halted = true ↔ s.state = 0xF#4) ∧
    (outputs s).status = statusWord s ∧
    ∀ (vs : List Inputs) (n : Nat), outputs { s with stim := vs, tick := n } = outputs s

/-- R25, field by field. -/
def Obligations.StatusWordLayout : Prop :=
  (∀ s : State,
    (statusWord s).extractLsb' 0 4 = s.state ∧
    (statusWord s).getLsbD 4 = s.patternsValid ∧
    (statusWord s).getLsbD 5 = decide (s.state = 0xF#4) ∧
    (statusWord s).extractLsb' 6 2 =
      (match s.fault with | .noFault => 0#2 | .initFail => 1#2 | .txFault => 2#2 | .illegalState => 3#2) ∧
    (statusWord s).extractLsb' 8 5 = s.txSlot ∧
    (statusWord s).getLsbD 13 = decide (s.txPhase = .low) ∧
    (statusWord s).extractLsb' 14 2 = 0#2 ∧
    (statusWord s).extractLsb' 16 16 = s.clkMhzR) ∧
  statusWord State.reset = 0x00000000#32

/-- R63, R65, with their examples. -/
def Obligations.SlotAndReportWords : Prop :=
  (∀ x : Slot, x.word.extractLsb' 16 16 = x.hi ∧ x.word.extractLsb' 0 16 = x.lo) ∧
  Slot.word ⟨32, 68⟩ = 0x00200044#32 ∧ Slot.word ⟨68, 32⟩ = 0x00440020#32 ∧ Slot.word ⟨0, 0⟩ = 0#32 ∧
  (∀ s : State,
    (outputs s).reportWord.extractLsb' 24 12 = s.voltage ∧ (outputs s).reportWord.extractLsb' 16 8 = s.red ∧
    (outputs s).reportWord.extractLsb' 8 8 = s.green ∧ (outputs s).reportWord.extractLsb' 0 8 = s.blue) ∧
  (∀ s : State, s.voltage = 1667 → s.red = 126 → s.green = 0 → s.blue = 129 →
    (outputs s).reportWord = 0x6837E0081#36)

/-- R69, R70: the input word's fields, the vectors of the stimulus mnemonics, and a script read line after line, one
vector a tick; and the expansions of the pseudo-mnemonics (R71, derived in the spec from R61 and R70). -/
def Obligations.InputWordsOfTheStimulus : Prop :=
  (∀ v : Inputs,
    (inputWord v).extractLsb' 16 16 = v.clockMhz ∧ (inputWord v).extractLsb' 4 12 = v.adcData ∧
    (inputWord v).getLsbD 3 = v.txFault ∧ (inputWord v).getLsbD 2 = v.adcValid ∧
    (inputWord v).getLsbD 1 = v.initFail ∧ (inputWord v).getLsbD 0 = v.cfgValid ∧
    vectorOf v.rst (inputWord v) = v) ∧
  (∀ (r : Bool) (w : BitVec 32), inputWord (vectorOf r w) = w ∧ (vectorOf r w).rst = r) ∧
  (StimLine.rst.vectors = [vectorOf true 0x00000000#32] ∧
    (∀ f : Megahertz, (StimLine.cfg f).vectors = [vectorOf false ((f.setWidth 32 <<< 16) ||| 0x1#32)]) ∧
    StimLine.ifl.vectors = [vectorOf false 0x00000002#32] ∧
    (∀ v : AdcCode, (StimLine.adc v).vectors = [vectorOf false ((v.setWidth 32 <<< 4) ||| 0x4#32)]) ∧
    StimLine.flt.vectors = [vectorOf false 0x00000008#32] ∧
    ∀ n, (StimLine.nop n).vectors = List.replicate n (vectorOf false 0x00000000#32)) ∧
  (∀ (l : StimLine) (ls : List StimLine), scriptVectors (l :: ls) = l.vectors ++ scriptVectors ls) ∧
  (∀ (s : State) (script : List StimLine) (j : Nat) (v : Inputs), (scriptVectors script)[j]? = some v →
    (s.withScript script).inputAt j = v) ∧
  ((∀ f, (StimLine.boot f).vectors = scriptVectors [.rst, .cfg f, .nop 1]) ∧
    (∀ n, (StimLine.wait n).vectors = scriptVectors [.nop n]) ∧
    ∀ v, (StimLine.iter v).vectors = scriptVectors [.adc v])

/-! ### Timing of the pulses -/

/-- R81 (derived in the spec from R80): each phase CALC computes is short of its nominal duration by less than one
tick, and never long. -/
def Obligations.EachPhaseIsShortByLessThanOneTick : Prop :=
  ∀ s t : State, exec .calculate s = .next t → 0 < s.clkMhzR.toNat →
    ∀ d n : ℕ, (d, n) ∈ [(400, t.zeroHi.toNat), (850, t.zeroLo.toNat), (850, t.oneHi.toNat), (400, t.oneLo.toNat)] →
      (n : ℚ) * 1000 / s.clkMhzR.toNat ≤ d ∧
      (d : ℚ) - 1000 / s.clkMhzR.toNat < (n : ℚ) * 1000 / s.clkMhzR.toNat

/-- R82 (derived in the spec from R80): the two patterns have one total, whose loss against 1250 ns is the table's, in
quarters of a tick. -/
def Obligations.BitPeriodLoss : Prop :=
  ∀ s t : State, exec .calculate s = .next t →
    t.zeroHi.toNat + t.zeroLo.toNat = t.oneHi.toNat + t.oneLo.toNat ∧
    some (5 * (s.clkMhzR.toNat : ℤ) - 4 * ((t.zeroHi.toNat : ℤ) + t.zeroLo.toNat)) =
      [(0 : ℤ), 5, 6, 3, 4, 1, 2, 7, 4, 5, 2, 3, 4, 1, 6, 3, 4, 5, 2, 3][s.clkMhzR.toNat % 20]? ∧
    4 * (t.zeroHi.toNat + t.zeroLo.toNat) ≤ 5 * s.clkMhzR.toNat ∧
    5 * s.clkMhzR.toNat ≤ 4 * (t.zeroHi.toNat + t.zeroLo.toNat) + 7 ∧
    ((t.zeroHi.toNat + t.zeroLo.toNat) * 1000 = 1250 * s.clkMhzR.toNat ↔ 20 ∣ s.clkMhzR.toNat)

/-- R83, with what R80 and R121 give at 3 MHz: the patterns and the waveform of a degenerate clock. At 2 MHz each data
slot sends its bit as one tick; from 3 MHz on every phase has a tick; at 3 MHz the patterns are (1, 2) and (2, 1), a bit
period of 1000 ns. No value of the frequency raises a fault where it is latched, used or sent. -/
def Obligations.DegenerateClocks : Prop :=
  (∀ s t : State, exec .calculate s = .next t →
    (s.clkMhzR.toNat ≤ 1 → t.zeroHi = 0 ∧ t.zeroLo = 0 ∧ t.oneHi = 0 ∧ t.oneLo = 0) ∧
    (s.clkMhzR.toNat = 2 → t.zeroHi = 0 ∧ t.zeroLo = 1 ∧ t.oneHi = 1 ∧ t.oneLo = 0) ∧
    (s.clkMhzR.toNat = 3 → t.zeroHi = 1 ∧ t.zeroLo = 2 ∧ t.oneHi = 2 ∧ t.oneLo = 1 ∧
      (t.zeroHi.toNat + t.zeroLo.toNat) * 1000 = 1000 * s.clkMhzR.toNat) ∧
    (3 ≤ s.clkMhzR.toNat →
      1 ≤ t.zeroHi.toNat ∧ 1 ≤ t.zeroLo.toNat ∧ 1 ≤ t.oneHi.toNat ∧ 1 ≤ t.oneLo.toNat)) ∧
  (∀ s t : State, s.frame.wf = true → HoldsPatterns s → exec .encode s = .next t →
    (s.clkMhzR.toNat ≤ 1 → (∀ k < 25, t.frame.slot k = ⟨0, 0⟩) ∧ waveform t.frame = []) ∧
    (s.clkMhzR.toNat = 2 → waveform t.frame = (List.range 24).map (sel s)) ∧
    (s.clkMhzR.toNat = 3 → waveform t.frame = (List.range 24).flatMap (fun k => [true, sel s k, false])) ∧
    (3 ≤ s.clkMhzR.toNat → endSlot t.frame = 24 ∧
      ∀ k < 24, 1 ≤ (t.frame.slot k).hi.toNat ∧ 1 ≤ (t.frame.slot k).lo.toNat)) ∧
  (∀ s : State, s.input.initFail = false → s.input.cfgValid = true →
    ∃ t, exec .rstWait s = .next t ∧ t.clkMhzR = s.input.clockMhz ∧ t.state = 0x1#4 ∧ t.fault = s.fault) ∧
  (∀ s t : State, exec .calculate s = .next t ∨ exec .encode s = .next t → t.fault = s.fault) ∧
  (∀ s t : State, s.input.txFault = false → exec .tx s = .next t ∨ exec .txEnd s = .next t → t.fault = s.fault)

/-! ### Voltage and colour -/

/-- R104 (derived in the spec from R103). -/
def Obligations.VoltageIsMonotoneWithItsThresholds : Prop :=
  (∀ s s' t t' : State, exec .convert s = .next t → exec .convert s' = .next t' →
    s.raw.toNat ≤ s'.raw.toNat → t.voltage.toNat ≤ t'.voltage.toNat) ∧
  (∀ s t : State, exec .convert s = .next t →
    (s.raw.toNat ≤ 621 → t.voltage.toNat ≤ 500) ∧ (s.raw.toNat = 622 → t.voltage.toNat = 501) ∧
    (3475 ≤ s.raw.toNat → 2800 ≤ t.voltage.toNat) ∧ (s.raw.toNat = 3474 → t.voltage.toNat = 2799))

/-- R108 (derived in the spec from R106): the five ties, where both channels round up. -/
def Obligations.ColourTies : Prop :=
  (∀ vc, 500 ≤ vc → vc ≤ 2800 →
    (510 * (vc - 500) % 4600 = 2300 ↔ vc ∈ [730, 1190, 1650, 2110, 2570])) ∧
  (∀ s t : State, exec .map s = .next t →
    (s.voltage.toNat = 730 → t.red = 230 ∧ t.green = 0 ∧ t.blue = 26) ∧
    (s.voltage.toNat = 1190 → t.red = 179 ∧ t.green = 0 ∧ t.blue = 77) ∧
    (s.voltage.toNat = 1650 → t.red = 128 ∧ t.green = 0 ∧ t.blue = 128) ∧
    (s.voltage.toNat = 2110 → t.red = 77 ∧ t.green = 0 ∧ t.blue = 179) ∧
    (s.voltage.toNat = 2570 → t.red = 26 ∧ t.green = 0 ∧ t.blue = 230) ∧
    (s.voltage.toNat ∈ [730, 1190, 1650, 2110, 2570] → t.red.toNat + t.blue.toNat = 256) ∧
    (s.voltage.toNat ∉ [730, 1190, 1650, 2110, 2570] → t.red.toNat + t.blue.toNat = 255))

/-- R109 (derived in the spec from R103 and R106), in millivolts and in raw codes. -/
def Obligations.ColourBoundaries : Prop :=
  (∀ s t : State, exec .map s = .next t →
    (s.voltage.toNat ≤ 504 → t.red = 255 ∧ t.green = 0 ∧ t.blue = 0) ∧
    (s.voltage.toNat = 505 → t.red = 254 ∧ t.green = 0 ∧ t.blue = 1) ∧
    (s.voltage.toNat = 2795 → t.red = 1 ∧ t.green = 0 ∧ t.blue = 254) ∧
    (2796 ≤ s.voltage.toNat → t.red = 0 ∧ t.green = 0 ∧ t.blue = 255)) ∧
  (∀ s t u : State, exec .convert s = .next t → exec .map t = .next u →
    (s.raw.toNat ≤ 626 → u.red = 255 ∧ u.green = 0 ∧ u.blue = 0) ∧
    (3470 ≤ s.raw.toNat → u.red = 0 ∧ u.green = 0 ∧ u.blue = 255))

/-- R110 (derived in the spec from R106): the colour is a monotone function of the voltage alone. -/
def Obligations.ColourIsMonotoneAndPure : Prop :=
  ∀ s s' t t' : State, exec .map s = .next t → exec .map s' = .next t' →
    (s.voltage.toNat < s'.voltage.toNat → t'.red.toNat ≤ t.red.toNat ∧ t.blue.toNat ≤ t'.blue.toNat) ∧
    (s.voltage = s'.voltage → t.red = t'.red ∧ t.green = t'.green ∧ t.blue = t'.blue)

/-! ### Transmission -/

/-- R122 (derived in the spec from R123 and R124): ENCODE establishes the transmit position, TX keeps it, and on entry
to TX_END `tx_slot` is where the search stopped. -/
def Obligations.TransmitPositionIsKept : Prop :=
  (∀ s t : State, s.frame.wf = true → exec .encode s = .next t →
    (t.state = 0x6#4 → TxPosition t) ∧ (t.state = 0x7#4 → t.txSlot.toNat = endSlot t.frame ∧ t.txPhase = .high)) ∧
  (∀ s t : State, s.frame.slot 24 = ⟨0, 0⟩ → TxPosition s → exec .tx s = .next t →
    (t.state = 0x6#4 → TxPosition t) ∧ (t.state = 0x7#4 → t.txSlot.toNat = endSlot t.frame ∧ t.txPhase = .high))

/-- R125 (derived in the spec from R91, R121, R123 and R124): from ENCODE on, without a fault, the TX ticks drive
exactly the waveform of the frame ENCODE wrote, one value a tick, and the tick after them is TX_END, with `dout` low.
-/
def Obligations.TransmissionDrivesTheWaveform : Prop :=
  ∀ (s u : State), s.frame.wf = true → s.state = 0x5#4 → exec .encode s = .next u →
    NoReset (1 + (waveform u.frame).length) s →
    (∀ i < (waveform u.frame).length, (s.inputAt (1 + i)).txFault = false) →
    (∀ i < (waveform u.frame).length, ∃ t, run (1 + i) s = .next t ∧ t.state = 0x6#4 ∧
      some (outputs t).dout = (waveform u.frame)[i]? ∧ t.frame = u.frame) ∧
    ∃ t, run (1 + (waveform u.frame).length) s = .next t ∧ t.state = 0x7#4 ∧ (outputs t).dout = false ∧
      t.frame = u.frame

/-- R128 (derived in the spec from R82, R121 and R126): all 24 data slots are sent from 2 MHz on, each in S(f) ticks;
below that, none. -/
def Obligations.TransmissionLength : Prop :=
  ∀ s t : State, s.frame.wf = true → HoldsPatterns s → exec .encode s = .next t →
    (2 ≤ s.clkMhzR.toNat → endSlot t.frame = 24 ∧
      (∀ k < 24, (slotWave (t.frame.slot k)).length = 400 * s.clkMhzR.toNat / 1000 + 850 * s.clkMhzR.toNat / 1000) ∧
      (waveform t.frame).length = 24 * (400 * s.clkMhzR.toNat / 1000 + 850 * s.clkMhzR.toNat / 1000)) ∧
    (s.clkMhzR.toNat ≤ 1 → (waveform t.frame).length = 0)

/-- R130: a transmit fault enters HALT with TX_FAULT, and from then on, until a reset, nothing is reported or sent. -/
def Obligations.TransmitFaultEndsTheLoop : Prop :=
  ∀ (n : Nat) (s : State), s.state = 0x6#4 ∨ s.state = 0x7#4 → s.input.txFault = true → s.fault = .noFault →
    NoReset (n + 1) s → ∃ t, run (n + 1) s = .next t ∧ t.state = 0xF#4 ∧ t.fault = .txFault ∧
      (outputs t).rptValid = false ∧ (outputs t).dout = false ∧ (outputs t).halted = true

/-! ### Waits, the boot and the loop -/

/-- R101: while the ADC is not ready SAMPLE repeats, for any number of ticks, with nothing changed; then the code it
latches is the one the ADC gave. -/
def Obligations.SampleWaitsForTheAdc : Prop :=
  (∀ (n : Nat) (s : State), s.state = 0x2#4 → NoReset n s → (∀ j < n, (s.inputAt j).adcValid = false) →
    ∃ t, run n s = .next t ∧ SameRegisters s t ∧ (outputs t).adcReq = true) ∧
  (∀ (n : Nat) (s : State), s.state = 0x2#4 → NoReset (n + 1) s → AdcReadyAfter n s →
    ∃ t, run (n + 1) s = .next t ∧ SameRegisters { s with raw := (s.inputAt n).adcData, state := 0x3#4 } t ∧
      (outputs t).adcReq = false)

/-- From RST_WAIT, bring-up that answers after `n` ticks brings the block to SAMPLE two ticks later, with the patterns
of the frequency it gave. -/
def Obligations.BootReachesSample : Prop :=
  ∀ (n : Nat) (s : State), s.state = 0x0#4 → NoReset (n + 2) s → (∀ j ≤ n, (s.inputAt j).initFail = false) →
    (∀ j < n, (s.inputAt j).cfgValid = false) → (s.inputAt n).cfgValid = true →
    ∃ t, run (n + 2) s = .next t ∧ t.state = 0x2#4 ∧ t.clkMhzR = (s.inputAt n).clockMhz ∧ HoldsPatterns t ∧
      t.patternsValid = true ∧ t.fault = s.fault

/-- R142, R144 (derived in the spec from R61, R111, R128 and R143): one iteration takes `n_s + 3 + len(W) + 1 + 1 +
max(1, P)` ticks, exactly one of them reports, and it reports the voltage and the colour of the code this iteration
sampled. -/
def Obligations.OneIterationOneReport : Prop :=
  ∀ (n : Nat) (s : State), Invariant s → s.state = 0x2#4 → AdcReadyAfter n s →
    let f := s.clkMhzR.toNat
    let len := if 2 ≤ f then 24 * (400 * f / 1000 + 850 * f / 1000) else 0
    let total := (n + 1) + 3 + len + 1 + 1 + max 1 (10000 * f)
    NoReset total s → (∀ j ≤ len, (s.inputAt (n + 4 + j)).txFault = false) →
    (∃ t, run total s = .next t ∧ t.state = 0x2#4 ∧ t.clkMhzR = s.clkMhzR) ∧
    (∀ j < total, ∃ t, run j s = .next t ∧ ((outputs t).rptValid = true ↔ j = n + 5 + len)) ∧
    ∃ t, run (n + 5 + len) s = .next t ∧
      (outputs t).rptMv.toNat = (s.inputAt n).adcData.toNat * 3300 / 4095 ∧
      (outputs t).rptR.toNat = redOf ((s.inputAt n).adcData.toNat * 3300 / 4095) ∧
      (outputs t).rptG = 0 ∧
      (outputs t).rptB.toNat = blueOf ((s.inputAt n).adcData.toNat * 3300 / 4095)

/-- Under the premise `adc_answers` of D28, with a bound on the wait (the model's form of it), and with no reset and no
channel fault where one is sampled, the loop goes on: in `m` times the longest iteration there are `m` ticks that
report, two of them never closer than the pace. Inputs that a state ignores are as they like (R187). -/
def Obligations.TheLoopGoesOnReporting : Prop :=
  ∀ (limit m : Nat) (s : State), Invariant s → s.state = 0x2#4 →
    let horizon := m * iterationTicks limit s.clkMhzR.toNat
    NoReset horizon s → NoFaultWhileSending horizon s → AdcAnswersWithin limit horizon s →
    ∃ ticks : List Nat, ticks.length = m ∧ ticks.Pairwise (fun i j => i + paceLength s.clkMhzR.toNat < j) ∧
      ∀ n ∈ ticks, n < horizon ∧ ∃ t, run n s = .next t ∧ (outputs t).rptValid = true

/-! ### The invariant -/

/-- The model's own invariant holds after reset, whatever vectors the environment applies. -/
def Obligations.ResetMeetsTheInvariant : Prop :=
  ∀ (vs : List Inputs) (n : Nat), Invariant { State.reset with stim := vs, tick := n }

/-- From every state that meets the invariant a tick answers, and with a state that meets it. -/
def Obligations.StepKeepsTheInvariant : Prop :=
  ∀ s : State, Invariant s → ∃ t, step s = .next t ∧ Invariant t

/-- No run from reset stops, whatever the environment does. -/
def Obligations.RunsFromResetNeverStop : Prop :=
  ∀ (n : Nat) (vs : List Inputs) (k : Nat), ∃ t, run n { State.reset with stim := vs, tick := k } = .next t ∧ Invariant t

/-- The frame buffer and the slot index alone, whatever else the state holds: from a canonical buffer (log entry 4) and a
`tx_slot` of a slot (R45) every tick answers, a reserved code included, keeps both, and writes no reserved code (R62). -/
def Obligations.StepKeepsTheFrameAndTheSlotRange : Prop :=
  ∀ s : State, s.frame.wf = true → s.txSlot.toNat ≤ 24 →
    ∃ t, step s = .next t ∧ t.frame.wf = true ∧ t.txSlot.toNat ≤ 24 ∧ (decode t.state).isReserved = false
end

