-- ==== Sys2Proof/Laws/Decode.lean ====
section
/-! SUPPORT. The operation read back from the code a transition writes, one lemma per operation, so that no proof
unfolds the decoder; and the sixteen codes as cases. -/

namespace Sys2Proof

@[simp] theorem decode_encode_rstWait : decode (encode .rstWait) = .rstWait := rfl
@[simp] theorem decode_encode_calculate : decode (encode .calculate) = .calculate := rfl
@[simp] theorem decode_encode_sample : decode (encode .sample) = .sample := rfl
@[simp] theorem decode_encode_convert : decode (encode .convert) = .convert := rfl
@[simp] theorem decode_encode_map : decode (encode .map) = .map := rfl
@[simp] theorem decode_encode_encode : decode (encode .encode) = .encode := rfl
@[simp] theorem decode_encode_tx : decode (encode .tx) = .tx := rfl
@[simp] theorem decode_encode_txEnd : decode (encode .txEnd) = .txEnd := rfl
@[simp] theorem decode_encode_report : decode (encode .report) = .report := rfl
@[simp] theorem decode_encode_pace : decode (encode .pace) = .pace := rfl
@[simp] theorem decode_encode_halt : decode (encode .halt) = .halt := rfl
@[simp] theorem decode_encode_reservedE : decode (encode .reservedE) = .reservedE := rfl

/-- Every code is that of one of the eleven operations, or reserved. -/
theorem code_cases (c : StateCode) :
    c = encode .rstWait ∨ c = encode .calculate ∨ c = encode .sample ∨ c = encode .convert ∨ c = encode .map ∨
      c = encode .encode ∨ c = encode .tx ∨ c = encode .txEnd ∨ c = encode .report ∨ c = encode .pace ∨
      c = encode .halt ∨ (decode c).isReserved = true := by
  revert c
  decide

/-- The reserved codes are 0xA to 0xE (R60). -/
theorem isReserved_decode_iff (c : StateCode) :
    (decode c).isReserved = true ↔ 0xA ≤ c.toNat ∧ c.toNat ≤ 0xE := by
  revert c
  decide

/-- An operation decoded from a code has that code. -/
theorem encode_decode (c : StateCode) : encode (decode c) = c := by
  revert c
  decide

end Sys2Proof
end

