-- ==== Sys2Proof/Laws/Invariant.lean ====
section
/-! SUPPORT. The invariant speaks of the registers alone: the environment's vectors do not touch it. -/

namespace Sys2Proof.Machine

/-- The patterns of a state whose pattern registers and frequency are those of `s`. -/
theorem HoldsPatterns.of_fields {s t : State} (h : HoldsPatterns s) (hzh : t.zeroHi = s.zeroHi) (hzl : t.zeroLo = s.zeroLo)
    (hoh : t.oneHi = s.oneHi) (hol : t.oneLo = s.oneLo) (hf : t.clkMhzR = s.clkMhzR) : HoldsPatterns t :=
  ⟨by rw [hzh, hf]; exact h.zero_hi, by rw [hzl, hf]; exact h.zero_lo, by rw [hoh, hf]; exact h.one_hi,
    by rw [hol, hf]; exact h.one_lo⟩

/-- The transmit position of a state with the same frame and position registers. -/
theorem TxPosition.of_fields {s t : State} (h : TxPosition s) (hm : t.frame = s.frame) (hs : t.txSlot = s.txSlot)
    (hp : t.txPhase = s.txPhase) (hc : t.txCnt = s.txCnt) : TxPosition t :=
  ⟨by rw [hm, hs]; exact h.before_end, by rw [hm, hs, hp, hc]; exact h.ticks_left⟩

theorem Invariant.of_sameRegisters {s t : State} (h : Invariant s) (hr : SameRegisters s t) : Invariant t := by
  rw [hr]
  exact {
    frame_canonical := h.frame_canonical
    code_legal := h.code_legal
    slot_in_range := h.slot_in_range
    voltage_in_range := h.voltage_in_range
    green_zero := h.green_zero
    pace_in_range := h.pace_in_range
    fault_iff_halt := h.fault_iff_halt
    patterns := fun hv => (h.patterns hv).of_fields rfl rfl rfl rfl rfl
    before_calc := h.before_calc
    before_latch := h.before_latch
    calc_done := h.calc_done
    data_slots := h.data_slots
    terminator_zero := h.terminator_zero
    voltage_current := h.voltage_current
    colour_current := h.colour_current
    frame_current := h.frame_current
    tx_position := fun hs => (h.tx_position hs).of_fields rfl rfl rfl rfl
    tx_ended := h.tx_ended
    tx_idle := h.tx_idle }

end Sys2Proof.Machine
end

