-- ==== Sys2Proof/Laws/Memory.lean ====
section
/-! SUPPORT. The laws of the frame buffer: reading after a write, the canonical form, and the frame ENCODE writes. -/

namespace Sys2Proof.Machine

@[simp] theorem Memory.slot_nil (k : Nat) : Memory.slot [] k = Slot.zero := rfl

theorem Memory.slot_cons (a : Nat) (x : Slot) (m : Memory) (k : Nat) :
    Memory.slot ((a, x) :: m) k = if a = k then x else m.slot k := rfl

theorem Memory.wfFrom_cons (least a : Nat) (x : Slot) (m : Memory) :
    Memory.wfFrom least ((a, x) :: m) = true ↔
      least ≤ a ∧ a < 25 ∧ x ≠ Slot.zero ∧ m.wfFrom (a + 1) = true := by
  simp only [Memory.wfFrom, Bool.and_eq_true, decide_eq_true_eq, and_assoc]
  rfl

theorem Memory.wfFrom_mono {m : Memory} {least least' : Nat} (h : least ≤ least') (hm : m.wfFrom least' = true) :
    m.wfFrom least = true := by
  cases m with
  | nil => rfl
  | cons c m =>
    obtain ⟨a, x⟩ := c
    rw [Memory.wfFrom_cons] at hm ⊢
    exact ⟨h.trans hm.1, hm.2⟩

theorem Memory.slot_below {m : Memory} {least k : Nat} (hm : m.wfFrom least = true) (hk : k < least) :
    m.slot k = Slot.zero := by
  induction m generalizing least with
  | nil => rfl
  | cons c m ih =>
    obtain ⟨a, x⟩ := c
    rw [Memory.wfFrom_cons] at hm
    rw [Memory.slot_cons, if_neg (by omega)]
    exact ih hm.2.2.2 (by omega)

theorem Memory.slot_above {m : Memory} {least k : Nat} (hm : m.wfFrom least = true) (hk : 25 ≤ k) :
    m.slot k = Slot.zero := by
  induction m generalizing least with
  | nil => rfl
  | cons c m ih =>
    obtain ⟨a, x⟩ := c
    rw [Memory.wfFrom_cons] at hm
    rw [Memory.slot_cons, if_neg (by omega)]
    exact ih hm.2.2.2

/-- A read after a write, at the written slot and at every other one. -/
theorem Memory.slot_put {m : Memory} {least : Nat} (hm : m.wfFrom least = true) (k j : Nat) (x : Slot) :
    (m.put k x).slot j = if j = k then x else m.slot j := by
  induction m generalizing least with
  | nil =>
    by_cases hx : x = Slot.zero
    · simp [Memory.put, hx]
    · simp [Memory.put, hx, Memory.slot_cons, eq_comm]
  | cons c m ih =>
    obtain ⟨a, y⟩ := c
    rw [Memory.wfFrom_cons] at hm
    have hk0 : k ≤ a → Memory.slot m k = Slot.zero := fun h => Memory.slot_below hm.2.2.2 (by omega)
    have ih' := ih hm.2.2.2
    rcases Nat.lt_trichotomy k a with h | h | h
    · rw [Memory.put, if_pos h]
      by_cases hx : x = Slot.zero
      · rw [if_pos hx, Memory.slot_cons]
        by_cases hj : j = k
        · rw [if_neg (by omega), if_pos hj, hj, hk0 h.le, hx]
        · rw [if_neg hj]
      · rw [if_neg hx, Memory.slot_cons, Memory.slot_cons]
        by_cases hj : j = k
        · rw [if_pos hj.symm, if_pos hj]
        · rw [if_neg (Ne.symm hj), if_neg hj]
    · rw [Memory.put, if_neg (by omega), if_pos h, Memory.slot_cons]
      by_cases hx : x = Slot.zero
      · rw [if_pos hx]
        by_cases hj : j = k
        · rw [if_pos hj, hj, hk0 h.le, hx]
        · rw [if_neg hj, if_neg (by omega)]
      · rw [if_neg hx, Memory.slot_cons]
        by_cases hj : j = k
        · rw [if_pos hj.symm, if_pos hj]
        · rw [if_neg (Ne.symm hj), if_neg hj, if_neg (by omega)]
    · rw [Memory.put, if_neg (by omega), if_neg (by omega), Memory.slot_cons, Memory.slot_cons]
      by_cases ha : a = j
      · rw [if_pos ha, if_pos ha, if_neg (by omega)]
      · rw [if_neg ha, if_neg ha, ih']

/-- A write of an existing slot keeps the canonical form. -/
theorem Memory.wfFrom_put {m : Memory} {least k : Nat} (hm : m.wfFrom least = true) (hl : least ≤ k) (hk : k < 25)
    (x : Slot) : (m.put k x).wfFrom least = true := by
  induction m generalizing least with
  | nil =>
    by_cases hx : x = Slot.zero
    · simp [Memory.put, hx, Memory.wfFrom]
    · simp only [Memory.put, hx, if_false, Memory.wfFrom_cons]
      exact ⟨hl, hk, hx, rfl⟩
  | cons c m ih =>
    obtain ⟨a, y⟩ := c
    have hm' := hm
    rw [Memory.wfFrom_cons] at hm
    unfold Memory.put
    split_ifs with h1 h2 h3 h4
    · exact hm'
    · rw [Memory.wfFrom_cons, Memory.wfFrom_cons]
      exact ⟨hl, hk, h2, by omega, hm.2.1, hm.2.2.1, hm.2.2.2⟩
    · exact Memory.wfFrom_mono (by omega) hm.2.2.2
    · rw [Memory.wfFrom_cons]
      exact ⟨hl, hk, h4, Memory.wfFrom_mono (by omega) hm.2.2.2⟩
    · rw [Memory.wfFrom_cons]
      exact ⟨hm.1, hm.2.1, hm.2.2.1, ih hm.2.2.2 (by omega)⟩

theorem Memory.eq_of_slots_from {m m' : Memory} {least : Nat} (hm : m.wfFrom least = true)
    (hm' : m'.wfFrom least = true) (h : ∀ k, m.slot k = m'.slot k) : m = m' := by
  induction m generalizing m' least with
  | nil =>
    cases m' with
    | nil => rfl
    | cons c m' =>
      obtain ⟨a, x⟩ := c
      rw [Memory.wfFrom_cons] at hm'
      have := h a
      rw [Memory.slot_cons, if_pos rfl, Memory.slot_nil] at this
      exact absurd this.symm hm'.2.2.1
  | cons c m ih =>
    obtain ⟨a, x⟩ := c
    rw [Memory.wfFrom_cons] at hm
    cases m' with
    | nil =>
      have := h a
      rw [Memory.slot_cons, if_pos rfl, Memory.slot_nil] at this
      exact absurd this hm.2.2.1
    | cons c' m' =>
      obtain ⟨a', x'⟩ := c'
      rw [Memory.wfFrom_cons] at hm'
      have hb : ∀ i, i < a + 1 → Memory.slot m i = Slot.zero := fun i hi => Memory.slot_below hm.2.2.2 hi
      have hb' : ∀ i, i < a' + 1 → Memory.slot m' i = Slot.zero := fun i hi => Memory.slot_below hm'.2.2.2 hi
      have haa : a = a' := by
        rcases Nat.lt_trichotomy a a' with hlt | heq | hgt
        · have := h a
          rw [Memory.slot_cons, if_pos rfl, Memory.slot_cons, if_neg (by omega), hb' a (by omega)] at this
          exact absurd this hm.2.2.1
        · exact heq
        · have := h a'
          rw [Memory.slot_cons, if_neg (by omega), Memory.slot_cons, if_pos rfl, hb a' (by omega)] at this
          exact absurd this.symm hm'.2.2.1
      subst haa
      have hx : x = x' := by simpa [Memory.slot_cons] using h a
      subst hx
      have htail : ∀ k, Memory.slot m k = Memory.slot m' k := by
        intro k
        by_cases hk : a = k
        · rw [hb k (by omega), hb' k (by omega)]
        · simpa [Memory.slot_cons, hk] using h k
      rw [ih hm.2.2.2 hm'.2.2.2 htail]

/-- Equal contents in canonical form are equal data. -/
theorem Memory.eq_of_slots {m m' : Memory} (hm : m.wf = true) (hm' : m'.wf = true)
    (h : ∀ k, m.slot k = m'.slot k) : m = m' := Memory.eq_of_slots_from hm hm' h

theorem reset_frame_wf : State.reset.frame.wf = true := rfl

theorem memRead_of_lt {m : Memory} {k : Nat} (h : k < 25) : memRead m k = some (m.slot k) := if_pos h

theorem memRead_of_ge {m : Memory} {k : Nat} (h : 25 ≤ k) : memRead m k = none :=
  if_neg (by simpa [Config.nSlots] using h)

/-- The only operation that changes the frame buffer keeps its canonical form. -/
theorem memWrite_wf {m : Memory} {k : Nat} (hm : m.wf = true) (hk : k < 25) (x : Slot) :
    (memWrite m k x).wf = true := Memory.wfFrom_put hm (Nat.zero_le k) hk x

theorem memWrite_slot {m : Memory} (hm : m.wf = true) (k j : Nat) (x : Slot) :
    (memWrite m k x).slot j = if j = k then x else m.slot j := Memory.slot_put hm k j x

/-- Writing the slots below `n` one after another. -/
theorem writes_below {m : Memory} (hm : m.wf = true) (f : Nat → Slot) (n : Nat) (hn : n ≤ 25) :
    ((List.range n).foldl (fun m k => memWrite m k (f k)) m).wf = true ∧
      ∀ j, ((List.range n).foldl (fun m k => memWrite m k (f k)) m).slot j = if j < n then f j else m.slot j := by
  induction n with
  | zero => exact ⟨hm, fun j => by simp⟩
  | succ n ih =>
    obtain ⟨hwf, hslot⟩ := ih (by omega)
    rw [List.range_succ, List.foldl_append]
    refine ⟨memWrite_wf hwf (by omega) _, fun j => ?_⟩
    rw [List.foldl_cons, List.foldl_nil, memWrite_slot hwf, hslot]
    by_cases h : j = n
    · rw [if_pos h, if_pos (by omega), h]
    · rw [if_neg h]
      by_cases hlt : j < n
      · rw [if_pos hlt, if_pos (by omega)]
      · rw [if_neg hlt, if_neg (by omega)]

theorem encodedFrame_wf {s : State} (h : s.frame.wf = true) : (encodedFrame s).wf = true :=
  (writes_below h (slotOperand s) 25 (Nat.le_refl 25)).1

/-- What ENCODE's frame holds (R64, R90): the old contents nowhere. -/
theorem encodedFrame_slot {s : State} (h : s.frame.wf = true) (k : Nat) :
    (encodedFrame s).slot k = if k < 25 then slotOperand s k else Slot.zero := by
  have := (writes_below h (slotOperand s) 25 (Nat.le_refl 25)).2 k
  rw [encodedFrame, Config.nSlots, this]
  split_ifs with hk
  · rfl
  · exact Memory.slot_above h (by omega)

end Sys2Proof.Machine
end

