-- ==== Sys2Proof/Laws/PerInstr.lean ====
section
/-! SUPPORT. Facts about each operation as syntax, one lemma per constructor. `RoundTrip`: a well-formed operation is
read back from its code (spec/30_encoding.md R60, R62). -/

namespace Sys2Proof.Laws.RoundTrip

def Statement (i : Instr) : Prop := i.wf = true → decode (encode i) = i

theorem rstWait : Statement .rstWait := fun _ => rfl
theorem calculate : Statement .calculate := fun _ => rfl
theorem sample : Statement .sample := fun _ => rfl
theorem convert : Statement .convert := fun _ => rfl
theorem map : Statement .map := fun _ => rfl
theorem encode : Statement .encode := fun _ => rfl
theorem tx : Statement .tx := fun _ => rfl
theorem txEnd : Statement .txEnd := fun _ => rfl
theorem report : Statement .report := fun _ => rfl
theorem pace : Statement .pace := fun _ => rfl
theorem halt : Statement .halt := fun _ => rfl
theorem reservedE : Statement .reservedE := fun _ => rfl

theorem reservedAB (code : StateCode) : Statement (.reservedAB code) := by
  revert code
  unfold Statement
  decide

theorem reservedCD (code : StateCode) : Statement (.reservedCD code) := by
  revert code
  unfold Statement
  decide

end Sys2Proof.Laws.RoundTrip
end

