-- ==== Sys2Proof/Laws/State.lean ====
section
/-! SUPPORT. One lemma per field per update of the state, each true by unfolding the update once. -/

namespace Sys2Proof.Machine

/-! ### `goto` -/

@[simp] theorem goto_state (i : Instr) (s : State) : (goto i s).state = encode i := rfl
@[simp] theorem goto_clkMhzR (i : Instr) (s : State) : (goto i s).clkMhzR = s.clkMhzR := rfl
@[simp] theorem goto_zeroHi (i : Instr) (s : State) : (goto i s).zeroHi = s.zeroHi := rfl
@[simp] theorem goto_zeroLo (i : Instr) (s : State) : (goto i s).zeroLo = s.zeroLo := rfl
@[simp] theorem goto_oneHi (i : Instr) (s : State) : (goto i s).oneHi = s.oneHi := rfl
@[simp] theorem goto_oneLo (i : Instr) (s : State) : (goto i s).oneLo = s.oneLo := rfl
@[simp] theorem goto_patternsValid (i : Instr) (s : State) : (goto i s).patternsValid = s.patternsValid := rfl
@[simp] theorem goto_raw (i : Instr) (s : State) : (goto i s).raw = s.raw := rfl
@[simp] theorem goto_voltage (i : Instr) (s : State) : (goto i s).voltage = s.voltage := rfl
@[simp] theorem goto_red (i : Instr) (s : State) : (goto i s).red = s.red := rfl
@[simp] theorem goto_green (i : Instr) (s : State) : (goto i s).green = s.green := rfl
@[simp] theorem goto_blue (i : Instr) (s : State) : (goto i s).blue = s.blue := rfl
@[simp] theorem goto_frame (i : Instr) (s : State) : (goto i s).frame = s.frame := rfl
@[simp] theorem goto_txSlot (i : Instr) (s : State) : (goto i s).txSlot = s.txSlot := rfl
@[simp] theorem goto_txPhase (i : Instr) (s : State) : (goto i s).txPhase = s.txPhase := rfl
@[simp] theorem goto_txCnt (i : Instr) (s : State) : (goto i s).txCnt = s.txCnt := rfl
@[simp] theorem goto_paceCnt (i : Instr) (s : State) : (goto i s).paceCnt = s.paceCnt := rfl
@[simp] theorem goto_fault (i : Instr) (s : State) : (goto i s).fault = s.fault := rfl
@[simp] theorem goto_stim (i : Instr) (s : State) : (goto i s).stim = s.stim := rfl
@[simp] theorem goto_tick (i : Instr) (s : State) : (goto i s).tick = s.tick := rfl

/-! ### `raiseFault` -/

@[simp] theorem raiseFault_state (c : FaultCode) (s : State) : (raiseFault c s).state = encode .halt := rfl
@[simp] theorem raiseFault_clkMhzR (c : FaultCode) (s : State) : (raiseFault c s).clkMhzR = s.clkMhzR := rfl
@[simp] theorem raiseFault_zeroHi (c : FaultCode) (s : State) : (raiseFault c s).zeroHi = s.zeroHi := rfl
@[simp] theorem raiseFault_zeroLo (c : FaultCode) (s : State) : (raiseFault c s).zeroLo = s.zeroLo := rfl
@[simp] theorem raiseFault_oneHi (c : FaultCode) (s : State) : (raiseFault c s).oneHi = s.oneHi := rfl
@[simp] theorem raiseFault_oneLo (c : FaultCode) (s : State) : (raiseFault c s).oneLo = s.oneLo := rfl
@[simp] theorem raiseFault_patternsValid (c : FaultCode) (s : State) : (raiseFault c s).patternsValid = s.patternsValid := rfl
@[simp] theorem raiseFault_raw (c : FaultCode) (s : State) : (raiseFault c s).raw = s.raw := rfl
@[simp] theorem raiseFault_voltage (c : FaultCode) (s : State) : (raiseFault c s).voltage = s.voltage := rfl
@[simp] theorem raiseFault_red (c : FaultCode) (s : State) : (raiseFault c s).red = s.red := rfl
@[simp] theorem raiseFault_green (c : FaultCode) (s : State) : (raiseFault c s).green = s.green := rfl
@[simp] theorem raiseFault_blue (c : FaultCode) (s : State) : (raiseFault c s).blue = s.blue := rfl
@[simp] theorem raiseFault_frame (c : FaultCode) (s : State) : (raiseFault c s).frame = s.frame := rfl
@[simp] theorem raiseFault_txSlot (c : FaultCode) (s : State) : (raiseFault c s).txSlot = s.txSlot := rfl
@[simp] theorem raiseFault_txPhase (c : FaultCode) (s : State) : (raiseFault c s).txPhase = s.txPhase := rfl
@[simp] theorem raiseFault_txCnt (c : FaultCode) (s : State) : (raiseFault c s).txCnt = s.txCnt := rfl
@[simp] theorem raiseFault_paceCnt (c : FaultCode) (s : State) : (raiseFault c s).paceCnt = s.paceCnt := rfl
@[simp] theorem raiseFault_fault (c : FaultCode) (s : State) : (raiseFault c s).fault = if s.fault = .noFault then c else s.fault := rfl
@[simp] theorem raiseFault_stim (c : FaultCode) (s : State) : (raiseFault c s).stim = s.stim := rfl
@[simp] theorem raiseFault_tick (c : FaultCode) (s : State) : (raiseFault c s).tick = s.tick := rfl

/-! ### `endTick` -/

@[simp] theorem endTick_state (s : State) : (s.endTick).state = s.state := rfl
@[simp] theorem endTick_clkMhzR (s : State) : (s.endTick).clkMhzR = s.clkMhzR := rfl
@[simp] theorem endTick_zeroHi (s : State) : (s.endTick).zeroHi = s.zeroHi := rfl
@[simp] theorem endTick_zeroLo (s : State) : (s.endTick).zeroLo = s.zeroLo := rfl
@[simp] theorem endTick_oneHi (s : State) : (s.endTick).oneHi = s.oneHi := rfl
@[simp] theorem endTick_oneLo (s : State) : (s.endTick).oneLo = s.oneLo := rfl
@[simp] theorem endTick_patternsValid (s : State) : (s.endTick).patternsValid = s.patternsValid := rfl
@[simp] theorem endTick_raw (s : State) : (s.endTick).raw = s.raw := rfl
@[simp] theorem endTick_voltage (s : State) : (s.endTick).voltage = s.voltage := rfl
@[simp] theorem endTick_red (s : State) : (s.endTick).red = s.red := rfl
@[simp] theorem endTick_green (s : State) : (s.endTick).green = s.green := rfl
@[simp] theorem endTick_blue (s : State) : (s.endTick).blue = s.blue := rfl
@[simp] theorem endTick_frame (s : State) : (s.endTick).frame = s.frame := rfl
@[simp] theorem endTick_txSlot (s : State) : (s.endTick).txSlot = s.txSlot := rfl
@[simp] theorem endTick_txPhase (s : State) : (s.endTick).txPhase = s.txPhase := rfl
@[simp] theorem endTick_txCnt (s : State) : (s.endTick).txCnt = s.txCnt := rfl
@[simp] theorem endTick_paceCnt (s : State) : (s.endTick).paceCnt = s.paceCnt := rfl
@[simp] theorem endTick_fault (s : State) : (s.endTick).fault = s.fault := rfl
@[simp] theorem endTick_stim (s : State) : (s.endTick).stim = s.stim.tail := rfl
@[simp] theorem endTick_tick (s : State) : (s.endTick).tick = s.tick + 1 := rfl

/-! ### `resetTick` -/

@[simp] theorem resetTick_state (s : State) : (resetTick s).state = encode .rstWait := rfl
@[simp] theorem resetTick_clkMhzR (s : State) : (resetTick s).clkMhzR = 0 := rfl
@[simp] theorem resetTick_zeroHi (s : State) : (resetTick s).zeroHi = 0 := rfl
@[simp] theorem resetTick_zeroLo (s : State) : (resetTick s).zeroLo = 0 := rfl
@[simp] theorem resetTick_oneHi (s : State) : (resetTick s).oneHi = 0 := rfl
@[simp] theorem resetTick_oneLo (s : State) : (resetTick s).oneLo = 0 := rfl
@[simp] theorem resetTick_patternsValid (s : State) : (resetTick s).patternsValid = false := rfl
@[simp] theorem resetTick_raw (s : State) : (resetTick s).raw = 0 := rfl
@[simp] theorem resetTick_voltage (s : State) : (resetTick s).voltage = 0 := rfl
@[simp] theorem resetTick_red (s : State) : (resetTick s).red = 0 := rfl
@[simp] theorem resetTick_green (s : State) : (resetTick s).green = 0 := rfl
@[simp] theorem resetTick_blue (s : State) : (resetTick s).blue = 0 := rfl
@[simp] theorem resetTick_frame (s : State) : (resetTick s).frame = [] := rfl
@[simp] theorem resetTick_txSlot (s : State) : (resetTick s).txSlot = 0 := rfl
@[simp] theorem resetTick_txPhase (s : State) : (resetTick s).txPhase = .high := rfl
@[simp] theorem resetTick_txCnt (s : State) : (resetTick s).txCnt = 0 := rfl
@[simp] theorem resetTick_paceCnt (s : State) : (resetTick s).paceCnt = 0 := rfl
@[simp] theorem resetTick_fault (s : State) : (resetTick s).fault = .noFault := rfl
@[simp] theorem resetTick_stim (s : State) : (resetTick s).stim = s.stim := rfl
@[simp] theorem resetTick_tick (s : State) : (resetTick s).tick = s.tick := rfl

/-! ### `handOver`: each search result by itself, then the fields no result touches -/

@[simp] theorem handOver_ended_state (k : Nat) (s : State) : (handOver (.ended k) s).state = encode .txEnd := rfl
@[simp] theorem handOver_ended_txSlot (k : Nat) (s : State) : (handOver (.ended k) s).txSlot = BitVec.ofNat 5 k := rfl
@[simp] theorem handOver_ended_txPhase (k : Nat) (s : State) : (handOver (.ended k) s).txPhase = .high := rfl
@[simp] theorem handOver_position_state (k : Nat) (ph : Phase) (s : State) : (handOver (.position k ph) s).state = encode .tx := rfl
@[simp] theorem handOver_position_txSlot (k : Nat) (ph : Phase) (s : State) : (handOver (.position k ph) s).txSlot = BitVec.ofNat 5 k := rfl
@[simp] theorem handOver_position_txPhase (k : Nat) (ph : Phase) (s : State) : (handOver (.position k ph) s).txPhase = ph := rfl
@[simp] theorem handOver_clkMhzR (p : SeekResult) (s : State) : (handOver p s).clkMhzR = s.clkMhzR := by cases p <;> rfl
@[simp] theorem handOver_zeroHi (p : SeekResult) (s : State) : (handOver p s).zeroHi = s.zeroHi := by cases p <;> rfl
@[simp] theorem handOver_zeroLo (p : SeekResult) (s : State) : (handOver p s).zeroLo = s.zeroLo := by cases p <;> rfl
@[simp] theorem handOver_oneHi (p : SeekResult) (s : State) : (handOver p s).oneHi = s.oneHi := by cases p <;> rfl
@[simp] theorem handOver_oneLo (p : SeekResult) (s : State) : (handOver p s).oneLo = s.oneLo := by cases p <;> rfl
@[simp] theorem handOver_patternsValid (p : SeekResult) (s : State) : (handOver p s).patternsValid = s.patternsValid := by cases p <;> rfl
@[simp] theorem handOver_raw (p : SeekResult) (s : State) : (handOver p s).raw = s.raw := by cases p <;> rfl
@[simp] theorem handOver_voltage (p : SeekResult) (s : State) : (handOver p s).voltage = s.voltage := by cases p <;> rfl
@[simp] theorem handOver_red (p : SeekResult) (s : State) : (handOver p s).red = s.red := by cases p <;> rfl
@[simp] theorem handOver_green (p : SeekResult) (s : State) : (handOver p s).green = s.green := by cases p <;> rfl
@[simp] theorem handOver_blue (p : SeekResult) (s : State) : (handOver p s).blue = s.blue := by cases p <;> rfl
@[simp] theorem handOver_frame (p : SeekResult) (s : State) : (handOver p s).frame = s.frame := by cases p <;> rfl
@[simp] theorem handOver_txCnt (p : SeekResult) (s : State) : (handOver p s).txCnt = s.txCnt := by cases p <;> rfl
@[simp] theorem handOver_paceCnt (p : SeekResult) (s : State) : (handOver p s).paceCnt = s.paceCnt := by cases p <;> rfl
@[simp] theorem handOver_fault (p : SeekResult) (s : State) : (handOver p s).fault = s.fault := by cases p <;> rfl
@[simp] theorem handOver_stim (p : SeekResult) (s : State) : (handOver p s).stim = s.stim := by cases p <;> rfl
@[simp] theorem handOver_tick (p : SeekResult) (s : State) : (handOver p s).tick = s.tick := by cases p <;> rfl

end Sys2Proof.Machine
end

