-- ==== Sys2Proof/Laws/Run.lean ====
section
/-! SUPPORT. Ticks one after another: the inputs a run meets, and what one tick can do. -/

namespace Sys2Proof.Machine

theorem inputAt_zero (s : State) : s.inputAt 0 = s.input := rfl

/-- The vector of tick `j` of the rest of a run is that of tick `j + 1` of the run. -/
theorem inputAt_of_next {s t : State} (hs : t.stim = s.stim.tail) (ht : t.tick = s.tick + 1) (j : Nat) :
    t.inputAt j = s.inputAt (j + 1) := by
  simp only [State.inputAt, hs, ht, List.getElem?_tail]
  rw [show s.tick + 1 + j = s.tick + (j + 1) by omega]

theorem input_eq_of_fields {s t : State} (hs : t.stim = s.stim) (ht : t.tick = s.tick) : t.input = s.input := by
  simp only [State.input, State.inputAt, hs, ht]

@[simp] theorem run_zero (s : State) : run 0 s = .next s := rfl

/-- The model's run is the host's. -/
theorem run_eq_core_run (n : Nat) (s : State) : run n s = Host.Core.run Sys2Proof.core n s := by
  induction n generalizing s with
  | zero => rfl
  | succ n ih =>
    cases h : step s with
    | next t =>
      have h' : Sys2Proof.core.step s = .next t := h
      simp only [run, h, Host.Core.run, h']
      exact ih t
    | fault r =>
      have h' : Sys2Proof.core.step s = .fault r := h
      simp only [run, h, Host.Core.run, h']
      rfl
    | refused r =>
      have h' : Sys2Proof.core.step s = .refused r := h
      simp only [run, h, Host.Core.run, h']
      rfl

theorem run_succ_of_step {s t : State} (h : step s = .next t) (n : Nat) : run (n + 1) s = run n t := by
  rw [run, h]

/-- A run of `m + n` ticks is a run of `m` and then one of `n`. -/
theorem run_add {m : Nat} {s t : State} (h : run m s = .next t) (n : Nat) : run (m + n) s = run n t := by
  induction m generalizing s with
  | zero => simp only [run_zero, Host.Outcome.next.injEq] at h; rw [h, Nat.zero_add]
  | succ m ih =>
    rw [Nat.succ_add, run]
    rw [run] at h
    cases hs : step s with
    | next u => rw [hs] at h; exact ih h
    | fault r => rw [hs] at h; cases h
    | refused r => rw [hs] at h; cases h

theorem step_of_reset {s : State} (h : s.input.rst = true) : step s = .next (resetTick s).endTick := by
  rw [step, if_pos h]

theorem step_of_exec {s t : State} (h : s.input.rst = false) (he : exec (decode s.state) s = .next t) :
    step s = .next t.endTick := by
  rw [step, if_neg (by simp [h]), he]

/-- Everything one tick can do: a reset, or the operation of `state`. -/
theorem step_cases {s t : State} (h : step s = .next t) :
    (s.input.rst = true ∧ t = (resetTick s).endTick) ∨
      (s.input.rst = false ∧ ∃ u, exec (decode s.state) s = .next u ∧ t = u.endTick) := by
  rw [step] at h
  split at h
  · exact .inl ⟨‹_›, by simpa using h.symm⟩
  · refine .inr ⟨by simpa using ‹¬ s.input.rst = true›, ?_⟩
    split at h
    · exact ⟨_, ‹_›, by simpa using h.symm⟩
    · cases h
    · cases h

end Sys2Proof.Machine
end

