-- ==== Sys2Proof/Laws/Seek.lean ====
section
/-! SUPPORT. What the search of R123 answers, and the end of a frame (R121). -/

namespace Sys2Proof.Machine

/-- The end index is at most 25; below it no slot is (0, 0), and at it, if it is a slot, the slot is (0, 0). -/
theorem endSlot_spec (m : Memory) :
    endSlot m ≤ 25 ∧ (∀ k < endSlot m, m.slot k ≠ Slot.zero) ∧
      (endSlot m < 25 → m.slot (endSlot m) = Slot.zero) := by
  unfold endSlot
  cases h : (List.range Config.nSlots).find? (fun k => m.slot k == Slot.zero) with
  | none =>
    have hall := List.find?_eq_none.mp h
    refine ⟨Nat.le_refl 25, fun k hk => ?_, fun h' => absurd h' (Nat.lt_irrefl 25)⟩
    simpa using hall k (List.mem_range.mpr hk)
  | some e =>
    have hmem := List.mem_range.mp (List.mem_of_find?_eq_some h)
    have hz := List.find?_some h
    refine ⟨Nat.le_of_lt hmem, fun k hk hzero => ?_, fun _ => by simpa using hz⟩
    obtain ⟨-, i, hi, hget, hbefore⟩ := List.find?_eq_some_iff_getElem.mp h
    have hie : i = e := by simpa using hget
    have hk' : k < i := by rw [hie]; exact hk
    have := hbefore k hk'
    simp [hzero] at this

theorem endSlot_eq {m : Memory} {e : Nat} (he : e < 25) (hz : m.slot e = Slot.zero)
    (hb : ∀ k < e, m.slot k ≠ Slot.zero) : endSlot m = e := by
  obtain ⟨-, h2, h3⟩ := endSlot_spec m
  rcases Nat.lt_trichotomy (endSlot m) e with hlt | heq | hgt
  · exact absurd (h3 (by omega)) (hb _ hlt)
  · exact heq
  · exact absurd hz (h2 e hgt)

/-- A slot that is not the terminator has a phase to send. -/
theorem Slot.low_pos_of_high_zero {x : Slot} (h : x ≠ Slot.zero) (hh : ¬ 0 < (x.dur .high).toNat) :
    0 < (x.dur .low).toNat := by
  obtain ⟨hi, lo⟩ := x
  by_contra hl
  simp only [Slot.dur] at hh hl
  have h1 : hi = 0 := BitVec.eq_of_toNat_eq (by simp; omega)
  have h2 : lo = 0 := BitVec.eq_of_toNat_eq (by simp; omega)
  exact h (by rw [h1, h2]; rfl)

/-- The search from the high phase of a slot: it stops within that slot. -/
theorem seekLoop_high (m : Memory) (fuel s : Nat) :
    seekLoop m (fuel + 2) s .high =
      if 25 ≤ s then .ended 24
      else if m.slot s = Slot.zero then .ended s
      else if 0 < (m.slot s).hi.toNat then .position s .high
      else .position s .low := by
  by_cases h1 : 25 ≤ s
  · simp [seekLoop, Config.nSlots, Config.terminator, h1]
  by_cases h2 : m.slot s = Slot.zero
  · simp [seekLoop, Config.nSlots, h1, h2]
  by_cases h3 : 0 < (m.slot s).hi.toNat
  · simp [seekLoop, Config.nSlots, h1, h2, h3, Slot.dur]
  · have hlow := Slot.low_pos_of_high_zero h2 h3
    simp only [Slot.dur] at hlow
    simp [seekLoop, Config.nSlots, h1, h2, h3, Slot.dur, after, hlow]

theorem seek_high (m : Memory) (s : Nat) :
    seek m s .high =
      if 25 ≤ s then .ended 24
      else if m.slot s = Slot.zero then .ended s
      else if 0 < (m.slot s).hi.toNat then .position s .high
      else .position s .low := seekLoop_high m 49 s

/-- The search from the low phase of a slot: that phase, or the search from the next slot. -/
theorem seek_low (m : Memory) (s : Nat) :
    seek m s .low =
      if 25 ≤ s then .ended 24
      else if m.slot s = Slot.zero then .ended s
      else if 0 < (m.slot s).lo.toNat then .position s .low
      else seek m (s + 1) .high := by
  rw [seek, seekLoop, seek_high, show (after s .low).2 = .high from rfl, show (after s .low).1 = s + 1 from rfl,
    seekLoop_high m 48 (s + 1)]
  rfl

end Sys2Proof.Machine
end

