-- ==== Sys2Proof/Laws/Tick.lean ====
section
/-! SUPPORT. What a tick without reset can do, said once: one case per branch of the operations' rules. Proofs about
the step split on these cases and do not unfold the meanings. -/

namespace Sys2Proof.Machine

/-- The duration of the phase at the transmit position. -/
def phaseTicks (s : State) : Nat := ((s.frame.slot s.txSlot.toNat).dur s.txPhase).toNat

/-- The search TX makes at the end of a phase (R124). -/
def nextPhase (s : State) : SeekResult := seek s.frame (after s.txSlot.toNat s.txPhase).1 (after s.txSlot.toNat s.txPhase).2

/-- `OpCase s u`: the operation whose code `s.state` holds takes `s` to `u`, the end of the tick left out. -/
inductive OpCase (s : State) : State → Prop where
  | initFail (hs : s.state = encode .rstWait) (hi : s.input.initFail = true) : OpCase s (raiseFault .initFail s)
  | latch (hs : s.state = encode .rstWait) (hi : s.input.initFail = false) (hc : s.input.cfgValid = true) :
      OpCase s (goto .calculate { s with clkMhzR := s.input.clockMhz })
  | waitBringup (hs : s.state = encode .rstWait) (hi : s.input.initFail = false) (hc : s.input.cfgValid = false) :
      OpCase s (goto .rstWait s)
  | calculate (hs : s.state = encode .calculate) :
      OpCase s (goto .sample
        { s with
          zeroHi := BitVec.ofNat 16 (ticksOf Config.t0hNs s.clkMhzR.toNat)
          zeroLo := BitVec.ofNat 16 (ticksOf Config.t0lNs s.clkMhzR.toNat)
          oneHi := BitVec.ofNat 16 (ticksOf Config.t1hNs s.clkMhzR.toNat)
          oneLo := BitVec.ofNat 16 (ticksOf Config.t1lNs s.clkMhzR.toNat)
          patternsValid := true })
  | sampled (hs : s.state = encode .sample) (ha : s.input.adcValid = true) :
      OpCase s (goto .convert { s with raw := s.input.adcData })
  | notReady (hs : s.state = encode .sample) (ha : s.input.adcValid = false) : OpCase s (goto .sample s)
  | convert (hs : s.state = encode .convert) :
      OpCase s (goto .map { s with voltage := BitVec.ofNat 12 (millivoltsOf s.raw.toNat) })
  | map (hs : s.state = encode .map) :
      OpCase s (goto .encode
        { s with
          red := BitVec.ofNat 8 (redOf s.voltage.toNat)
          blue := BitVec.ofNat 8 (blueOf s.voltage.toNat)
          green := 0 })
  | encode (p : SeekResult) (hs : s.state = encode .encode) (hp : seek (encodedFrame s) 0 .high = p) :
      OpCase s (handOver p { s with frame := encodedFrame s, txCnt := 0 })
  | txFault (hs : s.state = encode .tx ∨ s.state = encode .txEnd)
      (hf : s.input.txFault = true) : OpCase s (raiseFault .txFault s)
  | txWithin (hs : s.state = encode .tx) (hf : s.input.txFault = false) (hslot : s.txSlot.toNat ≤ 24)
      (hd : s.txCnt.toNat + 1 < phaseTicks s) :
      OpCase s (goto .tx { s with txCnt := BitVec.ofNat 16 (s.txCnt.toNat + 1) })
  | txLast (p : SeekResult) (hs : s.state = encode .tx) (hf : s.input.txFault = false)
      (hslot : s.txSlot.toNat ≤ 24) (hd : phaseTicks s ≤ s.txCnt.toNat + 1) (hp : nextPhase s = p) :
      OpCase s (handOver p { s with txCnt := 0 })
  | drained (hs : s.state = encode .txEnd) (hf : s.input.txFault = false) : OpCase s (goto .report s)
  | report (hs : s.state = encode .report) :
      OpCase s (goto .pace { s with paceCnt := BitVec.ofNat 32 (paceTicks s.clkMhzR.toNat) })
  | paceDone (hs : s.state = encode .pace) (hp : s.paceCnt.toNat ≤ 1) :
      OpCase s (goto .sample { s with paceCnt := 0 })
  | pacing (hs : s.state = encode .pace) (hp : 1 < s.paceCnt.toNat) :
      OpCase s (goto .pace { s with paceCnt := BitVec.ofNat 32 (s.paceCnt.toNat - 1) })
  | halt (hs : s.state = encode .halt) : OpCase s (goto .halt s)
  | reserved (hs : (decode s.state).isReserved = true) : OpCase s (raiseFault .illegalState s)

theorem currentDur_eq {s : State} (h : s.txSlot.toNat ≤ 24) :
    currentDur s = some ((s.frame.slot s.txSlot.toNat).dur s.txPhase) := by
  rw [currentDur, memRead_of_lt (by omega)]
  rfl

theorem execTx_of_fault {s : State} (hf : s.input.txFault = true) : execTx s = .next (raiseFault .txFault s) := by
  rw [execTx, if_pos hf]

theorem execTx_within {s : State} (hf : s.input.txFault = false) (hslot : s.txSlot.toNat ≤ 24)
    (hd : s.txCnt.toNat + 1 < phaseTicks s) :
    execTx s = .next (goto .tx { s with txCnt := BitVec.ofNat 16 (s.txCnt.toNat + 1) }) := by
  rw [execTx, if_neg (by simp [hf]), currentDur_eq hslot]
  exact if_pos hd

theorem execTx_last {s : State} (hf : s.input.txFault = false) (hslot : s.txSlot.toNat ≤ 24)
    (hd : phaseTicks s ≤ s.txCnt.toNat + 1) :
    execTx s = .next (handOver (nextPhase s) { s with txCnt := 0 }) := by
  rw [execTx, if_neg (by simp [hf]), currentDur_eq hslot]
  exact if_neg (Nat.not_lt.mpr hd)

theorem execTx_outside {s : State} (hf : s.input.txFault = false) (hslot : 24 < s.txSlot.toNat) :
    execTx s = .fault (.noSuchSlot s.txSlot.toNat) := by
  rw [execTx, if_neg (by simp [hf]), currentDur, memRead_of_ge hslot]
  rfl

theorem exec_of_isReserved {i : Instr} (h : i.isReserved = true) (s : State) :
    exec i s = .next (raiseFault .illegalState s) := by
  cases i with
  | reservedAB code => rfl
  | reservedCD code => rfl
  | reservedE => rfl
  | _ => exact absurd h (by simp [Instr.isReserved])

/-- An operation that answers is one of the cases. -/
theorem opCase_of_exec {s u : State} (h : exec (decode s.state) s = .next u) : OpCase s u := by
  rcases code_cases s.state with hs | hs | hs | hs | hs | hs | hs | hs | hs | hs | hs | hs
  · rw [hs, decode_encode_rstWait, exec, execRstWait] at h
    split_ifs at h with h1 h2
    · obtain rfl := by simpa using h
      exact .initFail hs h1
    · obtain rfl := by simpa using h
      exact .latch hs (by simpa using h1) h2
    · obtain rfl := by simpa using h
      exact .waitBringup hs (by simpa using h1) (by simpa using h2)
  · rw [hs, decode_encode_calculate, exec, execCalc] at h
    obtain rfl := by simpa using h
    exact .calculate hs
  · rw [hs, decode_encode_sample, exec, execSample] at h
    split_ifs at h with h1
    · obtain rfl := by simpa using h
      exact .sampled hs h1
    · obtain rfl := by simpa using h
      exact .notReady hs (by simpa using h1)
  · rw [hs, decode_encode_convert, exec, execConvert] at h
    obtain rfl := by simpa using h
    exact .convert hs
  · rw [hs, decode_encode_map, exec, execMap] at h
    obtain rfl := by simpa using h
    exact .map hs
  · rw [hs, decode_encode_encode, exec, execEncode] at h
    obtain rfl := by simpa using h
    exact .encode _ hs rfl
  · rw [hs, decode_encode_tx, exec] at h
    cases hf : s.input.txFault with
    | true =>
      rw [execTx_of_fault hf] at h
      obtain rfl := by simpa using h
      exact .txFault (.inl hs) hf
    | false =>
      by_cases hslot : s.txSlot.toNat ≤ 24
      · by_cases hd : s.txCnt.toNat + 1 < phaseTicks s
        · rw [execTx_within hf hslot hd] at h
          obtain rfl := by simpa using h
          exact .txWithin hs hf hslot hd
        · rw [execTx_last hf hslot (Nat.not_lt.mp hd)] at h
          obtain rfl := by simpa using h
          exact .txLast _ hs hf hslot (Nat.not_lt.mp hd) rfl
      · rw [execTx_outside hf (Nat.not_le.mp hslot)] at h
        cases h
  · rw [hs, decode_encode_txEnd, exec, execTxEnd] at h
    split_ifs at h with h1
    · obtain rfl := by simpa using h
      exact .txFault (.inr hs) h1
    · obtain rfl := by simpa using h
      exact .drained hs (by simpa using h1)
  · rw [hs, decode_encode_report, exec, execReport] at h
    obtain rfl := by simpa using h
    exact .report hs
  · rw [hs, decode_encode_pace, exec, execPace] at h
    split_ifs at h with h1
    · obtain rfl := by simpa using h
      exact .paceDone hs h1
    · obtain rfl := by simpa using h
      exact .pacing hs (Nat.not_le.mp h1)
  · rw [hs, decode_encode_halt, exec, execHalt] at h
    obtain rfl := by simpa using h
    exact .halt hs
  · rw [exec_of_isReserved hs] at h
    obtain rfl := by simpa using h
    exact .reserved hs

/-- Only TX with a slot index that names no slot stops; in every other state a tick answers. -/
theorem exec_answers {s : State} (h : s.txSlot.toNat ≤ 24) : ∃ u, exec (decode s.state) s = .next u := by
  rcases code_cases s.state with hs | hs | hs | hs | hs | hs | hs | hs | hs | hs | hs | hs
  · rw [hs, decode_encode_rstWait, exec, execRstWait]
    split_ifs <;> exact ⟨_, rfl⟩
  · rw [hs, decode_encode_calculate, exec, execCalc]
    exact ⟨_, rfl⟩
  · rw [hs, decode_encode_sample, exec, execSample]
    split_ifs <;> exact ⟨_, rfl⟩
  · rw [hs, decode_encode_convert, exec, execConvert]
    exact ⟨_, rfl⟩
  · rw [hs, decode_encode_map, exec, execMap]
    exact ⟨_, rfl⟩
  · rw [hs, decode_encode_encode, exec, execEncode]
    exact ⟨_, rfl⟩
  · rw [hs, decode_encode_tx, exec]
    cases hf : s.input.txFault with
    | true => exact ⟨_, execTx_of_fault hf⟩
    | false =>
      by_cases hd : s.txCnt.toNat + 1 < phaseTicks s
      · exact ⟨_, execTx_within hf h hd⟩
      · exact ⟨_, execTx_last hf h (Nat.not_lt.mp hd)⟩
  · rw [hs, decode_encode_txEnd, exec, execTxEnd]
    split_ifs <;> exact ⟨_, rfl⟩
  · rw [hs, decode_encode_report, exec, execReport]
    exact ⟨_, rfl⟩
  · rw [hs, decode_encode_pace, exec, execPace]
    split_ifs <;> exact ⟨_, rfl⟩
  · rw [hs, decode_encode_halt, exec, execHalt]
    exact ⟨_, rfl⟩
  · exact ⟨_, exec_of_isReserved hs s⟩

/-- A tick without reset, as its operation's case and then the end of the tick. -/
theorem opCase_of_step {s t : State} (h : step s = .next t) (hr : s.input.rst = false) :
    ∃ u, OpCase s u ∧ t = u.endTick := by
  rcases step_cases h with ⟨hr', _⟩ | ⟨_, u, hu, rfl⟩
  · rw [hr] at hr'
    cases hr'
  · exact ⟨u, opCase_of_exec hu, rfl⟩

/-- No operation touches the environment's vectors; the end of the tick does. -/
theorem opCase_env {s u : State} (h : OpCase s u) : u.stim = s.stim ∧ u.tick = s.tick := by
  cases h <;> first | exact ⟨rfl, rfl⟩ | exact ⟨handOver_stim _ _, handOver_tick _ _⟩

/-- Each tick, a reset tick too, brings up the environment's next vector. -/
theorem inputAt_of_step {s t : State} (h : step s = .next t) (j : Nat) : t.inputAt j = s.inputAt (j + 1) := by
  rcases step_cases h with ⟨_, rfl⟩ | ⟨_, u, hu, rfl⟩
  · exact inputAt_of_next rfl rfl j
  · obtain ⟨hs, ht⟩ := opCase_env (opCase_of_exec hu)
    exact inputAt_of_next (by simp [hs]) (by simp [ht]) j

/-- After `n` ticks the next vector is the `n`-th. -/
theorem inputAt_of_run {n : Nat} {s t : State} (h : run n s = .next t) (j : Nat) : t.inputAt j = s.inputAt (n + j) := by
  induction n generalizing s with
  | zero =>
    simp only [run_zero, Host.Outcome.next.injEq] at h
    rw [h, Nat.zero_add]
  | succ n ih =>
    rw [run] at h
    cases hs : step s with
    | next u =>
      rw [hs] at h
      rw [ih h, inputAt_of_step hs, show n + j + 1 = n + 1 + j by omega]
    | fault r => rw [hs] at h; cases h
    | refused r => rw [hs] at h; cases h

/-- One tick more. -/
theorem run_then_step {m : Nat} {s t u : State} (h : run m s = .next t) (h' : step t = .next u) :
    run (m + 1) s = .next u := by
  rw [run_add h, run_succ_of_step h', run_zero]

end Sys2Proof.Machine
end

