-- ==== Sys2Proof/Laws/Waveform.lean ====
section
/-! SUPPORT. The waveform of a frame (R121) from a transmit position on, and what the search of R123 leaves of it. -/

namespace Sys2Proof.Machine

/-- The waveform from slot `k` on. -/
def waveFrom (m : Memory) (k : Nat) : List Bool :=
  (List.range' k (endSlot m - k)).flatMap (fun j => slotWave (m.slot j))

/-- The waveform after one phase of slot `k`. -/
def waveAfter (m : Memory) (k : Nat) : Phase → List Bool
  | .high => List.replicate (m.slot k).lo.toNat false ++ waveFrom m (k + 1)
  | .low => waveFrom m (k + 1)

/-- The waveform still to send at slot `k`, phase `ph`, with `c` ticks of the phase sent. -/
def waveRest (m : Memory) (k : Nat) (ph : Phase) (c : Nat) : List Bool :=
  List.replicate (((m.slot k).dur ph).toNat - c) (ph == .high) ++ waveAfter m k ph

theorem waveFrom_zero (m : Memory) : waveFrom m 0 = waveform m := by
  simp [waveFrom, waveform, List.range_eq_range']

theorem waveFrom_end {m : Memory} {k : Nat} (h : endSlot m ≤ k) : waveFrom m k = [] := by
  simp [waveFrom, Nat.sub_eq_zero_of_le h]

theorem waveFrom_eq {m : Memory} {k : Nat} (h : k < endSlot m) :
    waveFrom m k = List.replicate (m.slot k).hi.toNat true ++ waveAfter m k .high := by
  rw [waveFrom, show endSlot m - k = endSlot m - (k + 1) + 1 by omega, List.range'_succ, List.flatMap_cons, slotWave,
    List.append_assoc]
  rfl

/-- A tick inside a phase sends one value of the rest. -/
theorem waveRest_within {m : Memory} {k : Nat} {ph : Phase} {c : Nat} (h : c < ((m.slot k).dur ph).toNat) :
    waveRest m k ph c = (ph == .high) :: waveRest m k ph (c + 1) := by
  rw [waveRest, waveRest, show ((m.slot k).dur ph).toNat - c = ((m.slot k).dur ph).toNat - (c + 1) + 1 by omega,
    List.replicate_succ, List.cons_append]

/-- The last tick of a phase leaves what comes after the phase. -/
theorem waveRest_last {m : Memory} {k : Nat} {ph : Phase} {c : Nat} (h : c < ((m.slot k).dur ph).toNat)
    (h' : ((m.slot k).dur ph).toNat ≤ c + 1) : waveRest m k ph c = (ph == .high) :: waveAfter m k ph := by
  rw [waveRest_within h, waveRest, Nat.sub_eq_zero_of_le h', List.replicate_zero, List.nil_append]

theorem endSlot_le_of_terminator {m : Memory} (h : m.slot 24 = Slot.zero) : endSlot m ≤ 24 := by
  by_contra hgt
  exact (endSlot_spec m).2.1 24 (by omega) h

/-- `Sends m p w`: from the search result `p` on, the waveform `w` remains. -/
inductive Sends (m : Memory) : SeekResult → List Bool → Prop where
  | ended : Sends m (.ended (endSlot m)) []
  | position (k : Nat) (ph : Phase) (hk : k < endSlot m) (hd : 0 < ((m.slot k).dur ph).toNat) :
      Sends m (.position k ph) (waveRest m k ph 0)

theorem seek_high_sends {m : Memory} (h : m.slot 24 = Slot.zero) {k : Nat} (hk : k ≤ endSlot m) :
    Sends m (seek m k .high) (waveFrom m k) := by
  have he := endSlot_le_of_terminator h
  rw [seek_high, if_neg (by omega)]
  rcases Nat.lt_or_ge k (endSlot m) with hlt | hge
  · have hne := (endSlot_spec m).2.1 k hlt
    rw [if_neg hne, waveFrom_eq hlt]
    by_cases hh : 0 < (m.slot k).hi.toNat
    · rw [if_pos hh]
      exact .position k .high hlt hh
    · rw [if_neg hh, show (m.slot k).hi.toNat = 0 by omega]
      exact .position k .low hlt (Slot.low_pos_of_high_zero hne hh)
  · obtain rfl : k = endSlot m := Nat.le_antisymm hk hge
    rw [if_pos ((endSlot_spec m).2.2 (by omega)), waveFrom_end (Nat.le_refl _)]
    exact .ended

/-- The search after a phase finds the next value of the waveform. -/
theorem seek_after_sends {m : Memory} (h : m.slot 24 = Slot.zero) {k : Nat} (hk : k < endSlot m) (ph : Phase) :
    Sends m (seek m (after k ph).1 (after k ph).2) (waveAfter m k ph) := by
  cases ph with
  | low => exact seek_high_sends h hk
  | high =>
    have he := endSlot_le_of_terminator h
    have hne := (endSlot_spec m).2.1 k hk
    show Sends m (seek m k .low) (waveAfter m k .high)
    rw [seek_low, if_neg (by omega), if_neg hne]
    by_cases hl : 0 < (m.slot k).lo.toNat
    · rw [if_pos hl]
      exact .position k .low hk hl
    · rw [if_neg hl, waveAfter, show (m.slot k).lo.toNat = 0 by omega]
      exact seek_high_sends h hk

/-- The search over a whole frame. -/
theorem seek_zero_sends {m : Memory} (h : m.slot 24 = Slot.zero) : Sends m (seek m 0 .high) (waveform m) := by
  have := seek_high_sends h (k := 0) (Nat.zero_le _)
  rwa [waveFrom_zero] at this

/-- The frame ENCODE writes ends at slot 24 at the latest. -/
theorem encodedFrame_terminator {s : State} (h : s.frame.wf = true) : (encodedFrame s).slot 24 = Slot.zero := by
  rw [encodedFrame_slot h]
  rfl

end Sys2Proof.Machine
end

