-- ==== Sys2Proof/Tests/Slice0.lean ====
section
/-! SUPPORT. The model's own tests, each of one operation or one step on a small state, with the values of
spec/95_test_vectors.md (its rows are named), and for every obligation with hypotheses a witness that they can be met. -/

open Sys2Proof Sys2Proof.Machine

namespace Slice0

/-! ### States to test on -/

/-- After reset, with this code in `state` and these vectors to come. -/
def placed (code : StateCode) (vs : List Inputs) : State := { State.reset with state := code, stim := vs }

/-- In SAMPLE after bring-up at `f` MHz, the patterns given as tick counts. -/
def booted (f : Megahertz) (short long : TickCount) (vs : List Inputs) : State :=
  { placed 0x2#4 vs with
    clkMhzR := f, zeroHi := short, zeroLo := long, oneHi := long, oneLo := short, patternsValid := true }

/-- In ENCODE at `f` MHz with raw 2069, 1667 mV and colour (126, 0, 129) (2.3, 2.4). -/
def coloured (f : Megahertz) (short long : TickCount) (vs : List Inputs) : State :=
  { booted f short long vs with state := 0x5#4, raw := 2069, voltage := 1667, red := 126, blue := 129 }

/-- The slots as the strings of 2.5, Z and O for the patterns at 80 MHz. -/
def slots80 (m : Memory) : List Slot := (List.range 25).map m.slot
def z80 : Slot := ⟨32, 68⟩
def o80 : Slot := ⟨68, 32⟩

/-- In TX at 80 MHz at this position; slots 0 and 23 are patterns, slot 1 the terminator. -/
def sending (slot : BitVec 5) (ph : Phase) (cnt : TickCount) (v : Inputs) : State :=
  { placed 0x6#4 [v] with frame := [(0, z80), (23, o80)], txSlot := slot, txPhase := ph, txCnt := cnt }

/-- One field of the next state of an operation. -/
def after1 {α : Type} (i : Instr) (s : State) (field : State → α) : Option α := (nextOf (exec i s)).map field

/-- One field of the next state of a step. -/
def step1 {α : Type} (s : State) (field : State → α) : Option α := (nextOf (step s)).map field

/-! ### Well-formedness, decoding, encoding (R60, the opcode table) -/

theorem test_wf_refuses_reservedAB : (Instr.reservedAB 0x1#4).wf = false ∧ (Instr.reservedAB 0xC#4).wf = false := by decide
theorem test_wf_refuses_reservedCD : (Instr.reservedCD 0xB#4).wf = false ∧ (Instr.reservedCD 0xF#4).wf = false := by decide
theorem test_wf_accepts : (Instr.reservedAB 0xB#4).wf = true ∧ (Instr.reservedCD 0xC#4).wf = true := by decide

theorem test_decode_rstWait : decode 0b0000#4 = .rstWait := by decide
theorem test_decode_calculate : decode 0b0001#4 = .calculate := by decide
theorem test_decode_sample : decode 0b0010#4 = .sample := by decide
theorem test_decode_convert : decode 0b0011#4 = .convert := by decide
theorem test_decode_map : decode 0b0100#4 = .map := by decide
theorem test_decode_encode : decode 0b0101#4 = .encode := by decide
theorem test_decode_tx : decode 0b0110#4 = .tx := by decide
theorem test_decode_txEnd : decode 0b0111#4 = .txEnd := by decide
theorem test_decode_report : decode 0b1000#4 = .report := by decide
theorem test_decode_pace : decode 0b1001#4 = .pace := by decide
theorem test_decode_reservedAB : decode 0b1010#4 = .reservedAB 0xA#4 ∧ decode 0b1011#4 = .reservedAB 0xB#4 := by decide
theorem test_decode_reservedCD : decode 0b1100#4 = .reservedCD 0xC#4 ∧ decode 0b1101#4 = .reservedCD 0xD#4 := by decide
theorem test_decode_reservedE : decode 0b1110#4 = .reservedE := by decide
theorem test_decode_halt : decode 0b1111#4 = .halt := by decide
theorem test_decode_wide_number : decodeNumber 0x12 = .error .widerThanState := rfl
theorem test_table_word : decodeTableWord 8 0x6 = some .tx ∧ decodeTableWord 8 0x16 = none := by decide

/-- The placed code is the one the next step runs, from reset, where `Config.env` would give the vector. -/
theorem test_withFetchWord_runs_calculate :
    step1 (State.reset.withFetchWord 8 0x1) (fun t => (t.patternsValid, t.state)) = some (true, 0x2#4) := by decide
theorem test_withFetchWord_runs_reserved :
    step1 (State.reset.withFetchWord 8 0xC) (fun t => (t.fault, t.state)) = some (.illegalState, 0xF#4) := by decide

/-! ### One operation each -/

/-- 2.8, first row. -/
theorem test_rstWait_latches :
    after1 .rstWait (placed 0x0#4 [{ cfgValid := true, clockMhz := 80 }]) statusWord = some 0x00500001#32 := by decide
/-- 2.8, second row: `init_fail` wins. -/
theorem test_rstWait_initFail :
    after1 .rstWait (placed 0x0#4 [{ initFail := true, cfgValid := true, clockMhz := 80 }]) statusWord
      = some 0x0000006F#32 := by decide
/-- 2.1 at 7 MHz. -/
theorem test_calculate_7 :
    after1 .calculate { placed 0x1#4 [{}] with clkMhzR := 7 } (fun t => (t.zeroHi, t.zeroLo, t.oneHi, t.oneLo))
      = some (2, 5, 5, 2) := by decide
/-- 2.1 at the largest input. -/
theorem test_calculate_65535 :
    after1 .calculate { placed 0x1#4 [{}] with clkMhzR := 65535 } (fun t => (t.zeroHi, t.zeroLo, t.oneHi, t.oneLo))
      = some (26214, 55704, 55704, 26214) := by decide
/-- 2.2, first row. -/
theorem test_sample_ready :
    after1 .sample (placed 0x2#4 [{ adcValid := true, adcData := 2069 }]) (fun t => (t.raw, t.state))
      = some (2069, 0x3#4) := by decide
/-- 2.2, second row: data without `adc_valid` is ignored. -/
theorem test_sample_not_ready :
    after1 .sample { placed 0x2#4 [{ adcData := 7 }] with raw := 9 } (fun t => (t.raw, t.state))
      = some (9, 0x2#4) := by decide
/-- 2.3. -/
theorem test_convert_2069 :
    after1 .convert { placed 0x3#4 [{}] with raw := 2069 } (fun t => (t.voltage, t.state)) = some (1667, 0x4#4) := by decide
theorem test_convert_full_scale :
    after1 .convert { placed 0x3#4 [{}] with raw := 4095 } (·.voltage) = some 3300 := by decide
/-- 2.4, the tie at 1650 mV. -/
theorem test_map_tie :
    after1 .map { placed 0x4#4 [{}] with voltage := 1650, green := 5 } (fun t => (t.red, t.green, t.blue))
      = some (128, 0, 128) := by decide
theorem test_map_505 :
    after1 .map { placed 0x4#4 [{}] with voltage := 505 } (fun t => (t.red, t.green, t.blue)) = some (254, 0, 1) := by decide
/-- 2.5: `ZZZZZZZZ ZOOOOOOZ OZZZZZZO`. -/
theorem test_encode_126_129 :
    after1 .encode (coloured 80 32 68 [{}]) (fun t => slots80 t.frame)
      = some (List.replicate 8 z80 ++ ([z80] ++ List.replicate 6 o80 ++ [z80]) ++ ([o80] ++ List.replicate 6 z80 ++ [o80])
        ++ [⟨0, 0⟩]) := by decide
/-- 2.5: at 2 MHz the search skips the zero high phase of slot 0. -/
theorem test_encode_hands_over_low :
    after1 .encode (coloured 2 0 1 [{}]) (fun t => (t.txSlot, t.txPhase, t.state)) = some (0, .low, 0x6#4) := by decide
/-- 2.6: the high phase of slot 0 = Z is over after 32 ticks. -/
theorem test_tx_phase_end :
    after1 .tx (sending 0 .high 31 {}) (fun t => (t.txSlot, t.txPhase, t.txCnt, t.state))
      = some (0, .low, 0, 0x6#4) := by decide
/-- 2.6: after slot 0 comes the terminator of this frame. -/
theorem test_tx_frame_end :
    after1 .tx (sending 0 .low 67 {}) (fun t => (t.txSlot, t.txPhase, t.txCnt, t.state))
      = some (1, .high, 0, 0x7#4) := by decide
/-- R126. -/
theorem test_txEnd : after1 .txEnd (placed 0x7#4 [{}]) (·.state) = some 0x8#4 := by decide
/-- 2.6, last row. -/
theorem test_txEnd_fault :
    after1 .txEnd (placed 0x7#4 [{ txFault := true }]) (fun t => (t.fault, t.state)) = some (.txFault, 0xF#4) := by decide
/-- 2.7. -/
theorem test_report_largest :
    after1 .report { placed 0x8#4 [{}] with clkMhzR := 65535 } (fun t => (t.paceCnt, t.state))
      = some (655350000, 0x9#4) := by decide
/-- 2.7, the report word. -/
theorem test_report_word :
    (outputs { placed 0x8#4 [{}] with voltage := 1667, red := 126, blue := 129 }).reportWord = 0x6837E0081#36 := by decide
/-- R143. -/
theorem test_pace_last :
    after1 .pace { placed 0x9#4 [{}] with paceCnt := 1 } (fun t => (t.paceCnt, t.state)) = some (0, 0x2#4) := by decide
theorem test_pace_more :
    after1 .pace { placed 0x9#4 [{}] with paceCnt := 20000 } (fun t => (t.paceCnt, t.state))
      = some (19999, 0x9#4) := by decide
/-- 2.8: in HALT every input but `rst` is ignored. -/
theorem test_halt :
    after1 .halt { placed 0xF#4 [{ initFail := true, txFault := true }] with fault := .txFault }
      (fun t => (t.fault, t.state)) = some (.txFault, 0xF#4) := by decide
/-- R155, R152: the first fault is kept. -/
theorem test_reservedAB :
    after1 (.reservedAB 0xA#4) { placed 0xA#4 [{}] with fault := .initFail } (fun t => (t.fault, t.state))
      = some (.initFail, 0xF#4) := by decide
/-- 2.8, last row. -/
theorem test_reservedCD :
    after1 (.reservedCD 0xC#4) (placed 0xC#4 [{}]) (fun t => (t.fault, t.state)) = some (.illegalState, 0xF#4) := by decide
theorem test_reservedE :
    after1 .reservedE (placed 0xE#4 [{}]) (fun t => (t.fault, t.state)) = some (.illegalState, 0xF#4) := by decide

/-- R170: a reset tick in TX. -/
theorem test_reset_tick : step1 (sending 0 .low 3 { rst := true, txFault := true })
    (fun t => (t.state, t.frame, t.txPhase, t.txCnt, t.fault)) = some (0x0#4, [], .high, 0, .noFault) := by decide
/-- P4: the status word after the fault in slot 9. -/
theorem test_status_word :
    statusWord { placed 0xF#4 [] with clkMhzR := 80, patternsValid := true, fault := .txFault, txSlot := 9, txPhase := .low }
      = 0x005029BF#32 := by decide
/-- P3: the input word of `ADC 2069`. -/
theorem test_input_word : (StimLine.adc 2069).vectors.map inputWord = [0x00008154#32] := by decide
/-- R72: a report of one tick. -/
theorem test_run_line : addTick [⟨0, 1, 0x0#4, false⟩] 2 (placed 0x1#4 []) = [⟨2, 2, 0x1#4, false⟩, ⟨0, 1, 0x0#4, false⟩] := by
  decide

/-! ### Witnesses: the hypotheses of each statement can be met, clause by clause, at the bounds of their ranges -/

theorem witness_EveryCodeSelectsOneOperation :
    (Instr.reservedCD 0xD#4).wf = true ∧ (decode (placed 0xA#4 [{}]).state).isReserved = true ∧
    (decode (placed 0xE#4 [{}]).state).isReserved = true ∧ ∃ t, step (placed 0x1#4 [{}]) = .next t :=
  ⟨by decide, by decide, by decide, _, rfl⟩

theorem witness_StepRunsTheDecodedOperation :
    (placed 0x3#4 [{}]).input.rst = false ∧ decode (placed 0x3#4 [{}]).state = .convert := by decide

theorem witness_ResetTickWritesEveryRegister : (sending 0 .low 3 { rst := true }).input.rst = true := by decide

theorem witness_RstWaitLatchesOrFaults :
    (placed 0x0#4 [{ initFail := true, cfgValid := true }]).input.initFail = true ∧
    ((placed 0x0#4 [{ cfgValid := true }]).input.initFail = false ∧
      (placed 0x0#4 [{ cfgValid := true }]).input.cfgValid = true) ∧
    ((placed 0x0#4 [{}]).input.initFail = false ∧ (placed 0x0#4 [{}]).input.cfgValid = false) := by decide

theorem witness_SampleLatchesOrRetries :
    (placed 0x2#4 [{ adcValid := true }]).input.adcValid = true ∧ (placed 0x2#4 [{}]).input.adcValid = false ∧
    (placed 0x2#4 [{}]).state = 0x2#4 := by decide

theorem witness_MapIsTheRoundedInterpolation : ∃ t, exec .map (placed 0x4#4 [{}]) = .next t := ⟨_, rfl⟩

theorem witness_EncodeWritesTheFrame : (coloured 80 32 68 [{}]).frame.wf = true := by decide

/-- The patterns of the tests are those of R80, at the bounds of the clauses about degenerate clocks too. -/
theorem holdsPatterns_80 (vs : List Inputs) : HoldsPatterns (coloured 80 32 68 vs) :=
  HoldsPatterns.of_fields (s := coloured 80 32 68 []) ⟨by decide, by decide, by decide, by decide⟩ rfl rfl rfl rfl rfl
theorem holdsPatterns_3 (vs : List Inputs) : HoldsPatterns (coloured 3 1 2 vs) :=
  HoldsPatterns.of_fields (s := coloured 3 1 2 []) ⟨by decide, by decide, by decide, by decide⟩ rfl rfl rfl rfl rfl
theorem holdsPatterns_2 (vs : List Inputs) : HoldsPatterns (coloured 2 0 1 vs) :=
  HoldsPatterns.of_fields (s := coloured 2 0 1 []) ⟨by decide, by decide, by decide, by decide⟩ rfl rfl rfl rfl rfl
theorem holdsPatterns_1 (vs : List Inputs) : HoldsPatterns (coloured 1 0 0 vs) :=
  HoldsPatterns.of_fields (s := coloured 1 0 0 []) ⟨by decide, by decide, by decide, by decide⟩ rfl rfl rfl rfl rfl

theorem witness_EncodeHandsOver :
    ((coloured 2 0 1 [{}]).frame.wf = true ∧ HoldsPatterns (coloured 2 0 1 [{}]) ∧
      (∃ t, exec .encode (coloured 2 0 1 [{}]) = .next t ∧ seek t.frame 0 .high = .position 0 .low) ∧
      2 ≤ (coloured 2 0 1 [{}]).clkMhzR.toNat) ∧
    ((coloured 1 0 0 [{}]).frame.wf = true ∧ HoldsPatterns (coloured 1 0 0 [{}]) ∧
      (∃ t, exec .encode (coloured 1 0 0 [{}]) = .next t ∧ seek t.frame 0 .high = .ended 0) ∧
      (coloured 1 0 0 [{}]).clkMhzR.toNat ≤ 1) :=
  ⟨⟨by decide, holdsPatterns_2 _, ⟨_, rfl, by decide⟩, by decide⟩,
    ⟨by decide, holdsPatterns_1 _, ⟨_, rfl, by decide⟩, by decide⟩⟩

theorem witness_SeekFindsTheFirstSendablePhase :
    seek [(0, ⟨0, 1⟩)] 0 .high = .position 0 .low ∧ seek [(24, ⟨1, 0⟩)] 24 .high = .position 24 .high ∧
    seek [] 24 .low = .ended 24 ∧ seek [(24, ⟨1, 0⟩)] 24 .low = .ended 24 ∧ seek [] 25 .high = .ended 24 := by decide

theorem witness_TxSendsOneTick :
    (sending 0 .high 0 {}).state = 0x6#4 ∧ (sending 0 .high 0 { txFault := true }).input.txFault = true ∧
    ((sending 0 .high 30 {}).input.txFault = false ∧ (sending 0 .high 30 {}).txSlot.toNat ≤ 24 ∧
      (30 : TickCount).toNat + 1 < (((sending 0 .high 30 {}).frame.slot 0).dur .high).toNat) ∧
    ((((sending 0 .high 31 {}).frame.slot 0).dur .high).toNat ≤ (31 : TickCount).toNat + 1 ∧
      seek (sending 0 .high 31 {}).frame (after 0 .high).1 (after 0 .high).2 = .position 0 .low) ∧
    ((sending 24 .high 0 {}).txSlot.toNat ≤ 24 ∧
      (((sending 24 .high 0 {}).frame.slot 24).dur .high).toNat ≤ (0 : TickCount).toNat + 1 ∧
      seek (sending 24 .high 0 {}).frame (after 24 .high).1 (after 24 .high).2 = .ended 24) := by decide

theorem witness_TxOutsideTheFrameStops :
    (sending 25 .high 0 {}).input.txFault = false ∧ 24 < (sending 25 .high 0 {}).txSlot.toNat := by decide

theorem witness_TxEndConfirmsOrFaults :
    (placed 0x7#4 [{}]).state = 0x7#4 ∧ (placed 0x7#4 [{ txFault := true }]).input.txFault = true ∧
    (placed 0x7#4 [{}]).input.txFault = false := by decide

theorem witness_ReportPresentsAndLoadsThePace : (placed 0x8#4 [{}]).state = 0x8#4 := rfl

/-- In PACE with `p` ticks to wait. -/
def pacing (p : BitVec 32) (vs : List Inputs) : State := { placed 0x9#4 vs with paceCnt := p }

theorem witness_PaceCountsDown :
    (pacing 1 []).paceCnt.toNat ≤ 1 ∧ 1 < (pacing 2 []).paceCnt.toNat ∧
    ((pacing 0 [{}]).state = 0x9#4 ∧ NoReset (max 1 (pacing 0 [{}]).paceCnt.toNat) (pacing 0 [{}])) ∧
    ((pacing 2 [{}, {}]).state = 0x9#4 ∧ NoReset (max 1 (pacing 2 [{}, {}]).paceCnt.toNat) (pacing 2 [{}, {}])) := by
  unfold NoReset
  decide

theorem witness_HaltStays : (placed 0xF#4 [{}]).state = 0xF#4 := rfl

theorem witness_ReservedCodesFault :
    (Instr.reservedAB 0xA#4).isReserved = true ∧ (Instr.reservedCD 0xD#4).isReserved = true ∧
    Instr.reservedE.isReserved = true ∧ (decode (placed 0xB#4 [{}]).state).isReserved = true := by decide

/-- A state with each fault's cause, and one with none. -/
theorem witness_FaultCodesHaveTheirCauses :
    (∃ t, step (placed 0x0#4 [{ initFail := true }]) = .next t ∧ t.fault = .initFail) ∧
    (∃ t, step (sending 0 .high 0 { txFault := true }) = .next t ∧ t.fault = .txFault) ∧
    (∃ t, step (placed 0xA#4 [{}]) = .next t ∧ t.fault = .illegalState) ∧
    (∃ t, step (placed 0x1#4 [{}]) = .next t ∧ t.fault = .noFault) ∧
    (placed 0x0#4 [{ initFail := true }]).input.rst = false ∧ (sending 0 .high 0 { txFault := true }).input.rst = false ∧
    (placed 0xA#4 [{}]).input.rst = false ∧ (placed 0x1#4 [{}]).fault = .noFault :=
  ⟨⟨_, rfl, rfl⟩, ⟨_, rfl, rfl⟩, ⟨_, rfl, rfl⟩, ⟨_, rfl, rfl⟩, rfl, rfl, rfl, rfl⟩

theorem witness_FaultEntryIsPrecise :
    ((placed 0x0#4 [{ initFail := true }]).state = 0x0#4 ∧ (placed 0x0#4 [{ initFail := true }]).input.initFail = true ∧
      (placed 0x0#4 [{ initFail := true }]).input.rst = false) ∧
    ((placed 0x7#4 [{ txFault := true }]).state = 0x7#4 ∧ (placed 0x7#4 [{ txFault := true }]).input.txFault = true) ∧
    (0xA ≤ (placed 0xA#4 [{}]).state.toNat ∧ (placed 0xE#4 [{}]).state.toNat ≤ 0xE) ∧
    ({ placed 0xA#4 [{}] with fault := .txFault } : State).fault ≠ .noFault := by decide

theorem witness_PriorityWithinOneTick :
    (placed 0x0#4 [{ rst := true, initFail := true }]).input.rst = true ∧
    ((placed 0x0#4 [{ initFail := true, cfgValid := true }]).input.rst = false ∧
      (placed 0x0#4 [{ initFail := true, cfgValid := true }]).input.initFail = true) ∧
    ((sending 0 .high 0 { txFault := true }).input.rst = false ∧ (sending 0 .high 0 { txFault := true }).state = 0x6#4 ∧
      (sending 0 .high 0 { txFault := true }).input.txFault = true) ∧
    (sending 24 .high 0 {}).input.rst = false ∧ (sending 24 .high 0 {}).input.txFault = false ∧
    (decode (sending 24 .high 0 {}).state).isReserved = false ∧ (sending 24 .high 0 {}).txSlot.toNat ≤ 24 :=
  by decide

theorem witness_FirstFaultIsKept :
    (placed 0x1#4 [{ rst := true }]).input.rst = true ∧
    ((placed 0xF#4 [{}]).input.rst = false ∧ ({ placed 0xF#4 [{}] with fault := .txFault } : State).fault ≠ .noFault) ∧
    ∃ t, step (placed 0xE#4 [{}]) = .next t ∧ t.fault ≠ (placed 0xE#4 [{}]).fault :=
  ⟨rfl, ⟨rfl, by decide⟩, _, rfl, by decide⟩

/-- The bound of `tx_slot`, and a frame for each way out of ENCODE and TX. -/
theorem witness_SuccessorTable :
    (sending 24 .low 0 {}).txSlot.toNat ≤ 24 ∧ (sending 24 .low 0 {}).input.rst = false ∧
    (∃ t, step (coloured 2 0 1 [{}]) = .next t ∧ 0 < ((t.frame.slot 0).dur .low).toNat ∧ t.frame.slot 0 ≠ ⟨0, 0⟩) ∧
    (∃ t, step (coloured 1 0 0 [{}]) = .next t ∧ t.frame.slot 0 = ⟨0, 0⟩) ∧
    seek (sending 0 .high 31 {}).frame (after 0 .high).1 (after 0 .high).2 = .position 0 .low ∧
    seek (sending 0 .low 67 {}).frame (after 0 .low).1 (after 0 .low).2 = .ended 1 ∧
    0xA ≤ (placed 0xA#4 [{}]).state.toNat ∧ (placed 0xE#4 [{}]).state.toNat ≤ 0xE :=
  ⟨by decide, rfl, ⟨_, rfl, by decide, by decide⟩, ⟨_, rfl, by decide⟩, by decide, by decide, by decide, by decide⟩

theorem witness_HaltIsLeftByResetOnly :
    ((placed 0xF#4 [{}, { initFail := true }]).state = 0xF#4 ∧ NoReset 2 (placed 0xF#4 [{}, { initFail := true }])) ∧
    (placed 0xF#4 [{ rst := true }]).input.rst = true := by
  unfold NoReset
  decide

theorem witness_UnsampledInputsHaveNoEffect :
    AgreeOnSampled (decode (placed 0x3#4 []).state) {} { adcValid := true, adcData := 7 } ∧
    AgreeOnSampled (decode (placed 0x2#4 []).state) { txFault := true } { adcData := 7 } :=
  ⟨⟨rfl, trivial⟩, rfl, rfl, fun h => absurd h (by decide)⟩

theorem witness_EachRegisterHasItsWriters :
    (placed 0x1#4 [{}]).input.rst = false ∧
    (∃ t, step (placed 0x0#4 [{ cfgValid := true, clockMhz := 80 }]) = .next t ∧ t.clkMhzR ≠ 0) ∧
    (∃ t, step { placed 0x1#4 [{}] with clkMhzR := 80 } = .next t ∧ t.zeroHi ≠ 0 ∧ t.patternsValid ≠ false) ∧
    (∃ t, step (placed 0x2#4 [{ adcValid := true, adcData := 5 }]) = .next t ∧ t.raw ≠ 0) ∧
    (∃ t, step { placed 0x3#4 [{}] with raw := 2 } = .next t ∧ t.voltage ≠ 0) ∧
    (∃ t, step (placed 0x4#4 [{}]) = .next t ∧ t.red ≠ 0) ∧
    (∃ t, step (coloured 2 0 1 [{}]) = .next t ∧ memRead t.frame 0 ≠ memRead (coloured 2 0 1 [{}]).frame 0) ∧
    (∃ t, step (sending 0 .high 30 {}) = .next t ∧ t.txCnt ≠ 30) ∧
    (∃ t, step (pacing 2 [{}]) = .next t ∧ t.paceCnt ≠ 2) ∧
    ∃ t, step (placed 0xA#4 [{}]) = .next t ∧ t.fault ≠ .noFault :=
  ⟨rfl, ⟨_, rfl, by decide⟩, ⟨_, rfl, by decide, by decide⟩, ⟨_, rfl, by decide⟩, ⟨_, rfl, by decide⟩, ⟨_, rfl, by decide⟩,
    ⟨_, rfl, by decide⟩, ⟨_, rfl, by decide⟩, ⟨_, rfl, by decide⟩, _, rfl, by decide⟩

theorem witness_CalcRunsOncePerReset :
    (∃ t, step (placed 0x0#4 [{ cfgValid := true }]) = .next t ∧ t.state = 0x1#4) ∧
    (placed 0x2#4 [{}]).state ≠ 0x0#4 ∧ (placed 0x2#4 [{}]).state ≠ 0x1#4 ∧ NoReset 1 (placed 0x2#4 [{}]) ∧
    ∃ t, run 1 (placed 0x2#4 [{}]) = .next t :=
  ⟨⟨_, rfl, rfl⟩, by decide, by decide, by unfold NoReset; decide, _, rfl⟩

theorem witness_SlotAndReportWords :
    ({ placed 0x8#4 [] with voltage := 1667, red := 126, blue := 129 } : State).green = 0 := rfl

theorem witness_InputWordsOfTheStimulus : (scriptVectors [.rst, .cfg 80])[1]? = some { cfgValid := true, clockMhz := 80 } := rfl

/-- In CALC at `f` MHz. -/
def calcAt (f : Megahertz) : State := { placed 0x1#4 [{}] with clkMhzR := f }

theorem witness_calculate (f : Megahertz) : ∃ t, exec .calculate (calcAt f) = .next t := ⟨_, rfl⟩

theorem witness_EachPhaseIsShortByLessThanOneTick : 0 < (calcAt 1).clkMhzR.toNat ∧ 0 < (calcAt 65535).clkMhzR.toNat := by
  decide

theorem witness_DegenerateClocks :
    ((calcAt 1).clkMhzR.toNat ≤ 1 ∧ (calcAt 2).clkMhzR.toNat = 2 ∧ (calcAt 3).clkMhzR.toNat = 3 ∧
      3 ≤ (calcAt 3).clkMhzR.toNat) ∧
    ((coloured 1 0 0 [{}]).frame.wf = true ∧ HoldsPatterns (coloured 1 0 0 [{}]) ∧
      ∃ t, exec .encode (coloured 1 0 0 [{}]) = .next t) ∧
    ((coloured 2 0 1 [{}]).frame.wf = true ∧ HoldsPatterns (coloured 2 0 1 [{}]) ∧
      ∃ t, exec .encode (coloured 2 0 1 [{}]) = .next t) ∧
    ((coloured 3 1 2 [{}]).frame.wf = true ∧ HoldsPatterns (coloured 3 1 2 [{}]) ∧
      ∃ t, exec .encode (coloured 3 1 2 [{}]) = .next t) ∧
    ((placed 0x0#4 [{ cfgValid := true, clockMhz := 0 }]).input.initFail = false ∧
      (placed 0x0#4 [{ cfgValid := true, clockMhz := 0 }]).input.cfgValid = true) ∧
    ((sending 0 .high 0 {}).input.txFault = false ∧ (∃ t, exec .tx (sending 0 .high 0 {}) = .next t) ∧
      ∃ t, exec .txEnd (sending 0 .high 0 {}) = .next t) :=
  ⟨by decide, ⟨by decide, holdsPatterns_1 _, _, rfl⟩, ⟨by decide, holdsPatterns_2 _, _, rfl⟩,
    ⟨by decide, holdsPatterns_3 _, _, rfl⟩, by decide, rfl, ⟨_, rfl⟩, _, rfl⟩

/-- In CONVERT with a raw code, and in MAP with a voltage. -/
def convertAt (raw : AdcCode) : State := { placed 0x3#4 [{}] with raw := raw }
def mapAt (mv : Millivolts) : State := { placed 0x4#4 [{}] with voltage := mv }

theorem witness_VoltageIsMonotoneWithItsThresholds :
    (∃ t t', exec .convert (convertAt 621) = .next t ∧ exec .convert (convertAt 622) = .next t') ∧
    (convertAt 621).raw.toNat ≤ (convertAt 622).raw.toNat ∧ (convertAt 621).raw.toNat ≤ 621 ∧
    (convertAt 622).raw.toNat = 622 ∧ 3475 ≤ (convertAt 3475).raw.toNat ∧ (convertAt 3474).raw.toNat = 3474 :=
  ⟨⟨_, _, rfl, rfl⟩, by decide, by decide, by decide, by decide, by decide⟩

theorem witness_ColourTies :
    (∃ t, exec .map (mapAt 730) = .next t) ∧ (mapAt 730).voltage.toNat = 730 ∧ (mapAt 1190).voltage.toNat = 1190 ∧
    (mapAt 1650).voltage.toNat = 1650 ∧ (mapAt 2110).voltage.toNat = 2110 ∧ (mapAt 2570).voltage.toNat = 2570 ∧
    (mapAt 500).voltage.toNat ∉ [730, 1190, 1650, 2110, 2570] :=
  ⟨⟨_, rfl⟩, rfl, rfl, rfl, rfl, rfl, by decide⟩

theorem witness_ColourBoundaries :
    ((mapAt 504).voltage.toNat ≤ 504 ∧ (mapAt 505).voltage.toNat = 505 ∧ (mapAt 2795).voltage.toNat = 2795 ∧
      2796 ≤ (mapAt 2796).voltage.toNat) ∧
    (convertAt 626).raw.toNat ≤ 626 ∧ 3470 ≤ (convertAt 3470).raw.toNat ∧
    ∃ t u, exec .convert (convertAt 626) = .next t ∧ exec .map t = .next u :=
  ⟨by decide, by decide, by decide, _, _, rfl, rfl⟩

theorem witness_ColourIsMonotoneAndPure :
    (∃ t t', exec .map (mapAt 504) = .next t ∧ exec .map (mapAt 505) = .next t') ∧
    (mapAt 504).voltage.toNat < (mapAt 505).voltage.toNat := ⟨⟨_, _, rfl, rfl⟩, by decide⟩

/-! ### Witnesses about runs -/

/-- In TX at 2 MHz, at the start of the frame of 1667 mV (2.5: the low phase of slot 0). -/
def transmitting (vs : List Inputs) : State :=
  { coloured 2 0 1 vs with
    state := 0x6#4, txPhase := .low
    frame := (List.range 9).map (fun k => (k, ⟨0, 1⟩)) ++ (List.range' 9 6).map (fun k => (k, ⟨1, 0⟩))
      ++ [(15, ⟨0, 1⟩), (16, ⟨1, 0⟩)] ++ (List.range' 17 6).map (fun k => (k, ⟨0, 1⟩)) ++ [(23, ⟨1, 0⟩)] }

theorem transmitting_position (vs : List Inputs) : TxPosition (transmitting vs) :=
  TxPosition.of_fields (s := transmitting []) ⟨by decide, by decide⟩ rfl rfl rfl rfl

theorem witness_TransmitPositionIsKept :
    ((coloured 2 0 1 [{}]).frame.wf = true ∧ ∃ t, exec .encode (coloured 2 0 1 [{}]) = .next t ∧ t.state = 0x6#4) ∧
    (∃ t, exec .encode (coloured 1 0 0 [{}]) = .next t ∧ t.state = 0x7#4) ∧
    ((transmitting [{}]).frame.slot 24 = ⟨0, 0⟩ ∧ TxPosition (transmitting [{}]) ∧
      ∃ t, exec .tx (transmitting [{}]) = .next t ∧ t.state = 0x6#4) :=
  ⟨⟨by decide, _, rfl, rfl⟩, ⟨_, rfl, rfl⟩, by decide, transmitting_position _, _, rfl, rfl⟩

theorem witness_TransmissionDrivesTheWaveform :
    (coloured 2 0 1 (List.replicate 25 {})).frame.wf = true ∧ (coloured 2 0 1 (List.replicate 25 {})).state = 0x5#4 ∧
    ∃ u, exec .encode (coloured 2 0 1 (List.replicate 25 {})) = .next u ∧ (waveform u.frame).length = 24 ∧
      NoReset 25 (coloured 2 0 1 (List.replicate 25 {})) ∧
      ∀ i < 24, ((coloured 2 0 1 (List.replicate 25 {})).inputAt (1 + i)).txFault = false :=
  ⟨by decide, rfl, _, rfl, by decide, by unfold NoReset; decide, by decide⟩

theorem witness_TransmissionLength :
    ((coloured 2 0 1 [{}]).frame.wf = true ∧ HoldsPatterns (coloured 2 0 1 [{}]) ∧
      2 ≤ (coloured 2 0 1 [{}]).clkMhzR.toNat ∧ ∃ t, exec .encode (coloured 2 0 1 [{}]) = .next t) ∧
    (HoldsPatterns (coloured 80 32 68 [{}]) ∧ 2 ≤ (coloured 80 32 68 [{}]).clkMhzR.toNat) ∧
    ((coloured 1 0 0 [{}]).frame.wf = true ∧ HoldsPatterns (coloured 1 0 0 [{}]) ∧
      (coloured 1 0 0 [{}]).clkMhzR.toNat ≤ 1 ∧ ∃ t, exec .encode (coloured 1 0 0 [{}]) = .next t) :=
  ⟨⟨by decide, holdsPatterns_2 _, by decide, _, rfl⟩, ⟨holdsPatterns_80 _, by decide⟩, by decide, holdsPatterns_1 _,
    by decide, _, rfl⟩

theorem witness_TransmitFaultEndsTheLoop :
    (placed 0x7#4 [{ txFault := true }, {}]).state = 0x7#4 ∧ (placed 0x7#4 [{ txFault := true }, {}]).input.txFault = true ∧
    (placed 0x7#4 [{ txFault := true }, {}]).fault = .noFault ∧ NoReset 2 (placed 0x7#4 [{ txFault := true }, {}]) := by
  unfold NoReset
  decide

/-- 2.2, second row. -/
theorem witness_SampleWaitsForTheAdc :
    (placed 0x2#4 [{}, {}, { adcValid := true, adcData := 5 }]).state = 0x2#4 ∧
    NoReset 3 (placed 0x2#4 [{}, {}, { adcValid := true, adcData := 5 }]) ∧
    AdcReadyAfter 2 (placed 0x2#4 [{}, {}, { adcValid := true, adcData := 5 }]) := by
  unfold NoReset AdcReadyAfter
  decide

theorem witness_BootReachesSample :
    (placed 0x0#4 [{}, { cfgValid := true, clockMhz := 80 }, {}]).state = 0x0#4 ∧
    NoReset 3 (placed 0x0#4 [{}, { cfgValid := true, clockMhz := 80 }, {}]) ∧
    (∀ j ≤ 1, ((placed 0x0#4 [{}, { cfgValid := true, clockMhz := 80 }, {}]).inputAt j).initFail = false) ∧
    (∀ j < 1, ((placed 0x0#4 [{}, { cfgValid := true, clockMhz := 80 }, {}]).inputAt j).cfgValid = false) ∧
    ((placed 0x0#4 [{}, { cfgValid := true, clockMhz := 80 }, {}]).inputAt 1).cfgValid = true := by
  unfold NoReset
  decide

/-- The patterns of R80 at 2 MHz and at 0 MHz, after bring-up. -/
theorem booted_patterns_2 : HoldsPatterns (booted 2 0 1 []) := ⟨by decide, by decide, by decide, by decide⟩
theorem booted_patterns_0 : HoldsPatterns (booted 0 0 0 []) := ⟨by decide, by decide, by decide, by decide⟩

/-- The invariant in SAMPLE after bring-up, before any frame is written. -/
theorem booted_invariant {f : Megahertz} {short long : TickCount} (vs : List Inputs)
    (hp : HoldsPatterns (booted f short long [])) : Invariant (booted f short long vs) where
  frame_canonical := rfl
  code_legal := (by decide : (decode 0x2#4).isReserved = false)
  slot_in_range := Nat.zero_le _
  voltage_in_range := Nat.zero_le _
  green_zero := rfl
  pace_in_range := Nat.zero_le _
  fault_iff_halt := ⟨fun h => absurd rfl h, fun h => absurd h (by decide : ¬ 0x2#4 = encode .halt)⟩
  patterns := fun _ => hp.of_fields rfl rfl rfl rfl rfl
  before_calc := fun h => absurd h (by decide : ¬ (0x2#4 = encode .rstWait ∨ 0x2#4 = encode .calculate))
  before_latch := fun h => absurd h (by decide : ¬ 0x2#4 = encode .rstWait)
  calc_done := fun _ => rfl
  data_slots := .inl rfl
  terminator_zero := rfl
  voltage_current := fun h => absurd h (by decide : ¬ afterConvert (decode 0x2#4) = true)
  colour_current := fun h => absurd h (by decide : ¬ afterMap (decode 0x2#4) = true)
  frame_current := fun h => absurd h (by decide : ¬ afterEncode (decode 0x2#4) = true)
  tx_position := fun h => absurd h (by decide : ¬ 0x2#4 = encode .tx)
  tx_ended := fun h => absurd h (by decide : ¬ 0x2#4 = encode .txEnd)
  tx_idle := fun _ _ => ⟨rfl, rfl⟩

/-- The invariant in the middle of a run, in TX. -/
theorem transmitting_invariant : Invariant (transmitting [{}]) where
  frame_canonical := by decide
  code_legal := by decide
  slot_in_range := by decide
  voltage_in_range := by decide
  green_zero := rfl
  pace_in_range := by decide
  fault_iff_halt := by decide
  patterns := fun _ => (holdsPatterns_2 [{}]).of_fields rfl rfl rfl rfl rfl
  before_calc := fun h => absurd h (by decide)
  before_latch := fun h => absurd h (by decide)
  calc_done := fun _ => rfl
  data_slots := .inr (by decide)
  terminator_zero := by decide
  voltage_current := fun _ => by decide
  colour_current := fun _ => by decide
  frame_current := fun _ => by decide
  tx_position := fun _ => transmitting_position _
  tx_ended := fun h => absurd h (by decide)
  tx_idle := fun h => absurd (by decide) h

theorem witness_StepKeepsTheInvariant : Invariant (transmitting [{}]) := transmitting_invariant

/-- The ADC answers in the first tick, and nothing else happens for `n` ticks. -/
def oneSample (n : Nat) : List Inputs := { adcValid := true, adcData := 2048 } :: List.replicate n {}

theorem oneSample_quiet {s : State} {n : Nat} (h : s.stim = oneSample n) (j : Nat) (hj : j < n + 1) :
    (s.inputAt j).rst = false ∧ (s.inputAt j).txFault = false := by
  cases j with
  | zero => simp [State.inputAt, h, oneSample]
  | succ j => simp [State.inputAt, h, oneSample, show j < n by omega]

/-- P6: an iteration at 2 MHz, of 1 + 3 + 24 + 2 + 20000 ticks; and the shortest, at 0 MHz, of 7. -/
theorem witness_OneIterationOneReport :
    (Invariant (booted 2 0 1 (oneSample 20029)) ∧ (booted 2 0 1 (oneSample 20029)).state = 0x2#4 ∧
      AdcReadyAfter 0 (booted 2 0 1 (oneSample 20029)) ∧ NoReset 20030 (booted 2 0 1 (oneSample 20029)) ∧
      ∀ j ≤ 24, ((booted 2 0 1 (oneSample 20029)).inputAt (0 + 4 + j)).txFault = false) ∧
    (Invariant (booted 0 0 0 (oneSample 6)) ∧ AdcReadyAfter 0 (booted 0 0 0 (oneSample 6)) ∧
      NoReset 7 (booted 0 0 0 (oneSample 6)) ∧
      ∀ j ≤ 0, ((booted 0 0 0 (oneSample 6)).inputAt (0 + 4 + j)).txFault = false) :=
  ⟨⟨booted_invariant _ booted_patterns_2, rfl, ⟨fun j hj => absurd hj (Nat.not_lt_zero j), rfl⟩,
      fun j hj => (oneSample_quiet rfl j hj).1, fun j hj => (oneSample_quiet rfl (0 + 4 + j) (by omega)).2⟩,
    booted_invariant _ booted_patterns_0, ⟨fun j hj => absurd hj (Nat.not_lt_zero j), rfl⟩,
      fun j hj => (oneSample_quiet rfl j hj).1, fun j hj => (oneSample_quiet rfl (0 + 4 + j) (by omega)).2⟩

/-- One iteration at 0 MHz (7 ticks): the ADC is ready in the SAMPLE tick alone, and `tx_fault` is 1 in MAP and REPORT,
which ignore it. -/
def noisyIteration : List Inputs :=
  [{ adcValid := true, adcData := 2048 }, {}, { txFault := true }, {}, {}, { txFault := true }, {}]

/-- A property of the state in each of the first `n` ticks, from its check on numerals. -/
theorem forall_run_of_check {n : Nat} {s : State} (p : Nat → State → Bool)
    (h : ∀ j < n, (nextOf (run j s)).all (p j) = true) {j : Nat} (hj : j < n) {t : State} (ht : run j s = .next t) :
    p j t = true := by
  have := h j hj
  rwa [ht, nextOf, Option.all_some] at this

theorem witness_TheLoopGoesOnReporting :
    Invariant (booted 0 0 0 noisyIteration) ∧ (booted 0 0 0 noisyIteration).state = 0x2#4 ∧
    1 * iterationTicks 0 (booted 0 0 0 noisyIteration).clkMhzR.toNat = 7 ∧ NoReset 7 (booted 0 0 0 noisyIteration) ∧
    NoFaultWhileSending 7 (booted 0 0 0 noisyIteration) ∧ AdcAnswersWithin 0 7 (booted 0 0 0 noisyIteration) := by
  refine ⟨booted_invariant _ booted_patterns_0, rfl, by decide, by unfold NoReset; decide, ?_, ?_⟩
  · intro j hj t ht hs
    have := forall_run_of_check
      (fun j t => decide (t.state = encode .tx ∨ t.state = encode .txEnd →
        ((booted 0 0 0 noisyIteration).inputAt j).txFault = false)) (by decide) hj ht
    exact of_decide_eq_true this hs
  · intro j hj t ht hs
    have := forall_run_of_check
      (fun j t => decide (t.state = encode .sample → ((booted 0 0 0 noisyIteration).inputAt j).adcValid = true))
      (by decide) (Nat.lt_of_le_of_lt (Nat.le_add_right j 0) hj) ht
    exact ⟨j, Nat.le_refl j, Nat.le_refl j, of_decide_eq_true this hs⟩

theorem witness_StepKeepsTheFrameAndTheSlotRange :
    ((sending 24 .low 0 {}).frame.wf = true ∧ (sending 24 .low 0 {}).txSlot.toNat ≤ 24) ∧
    ({ sending 24 .low 0 {} with state := 0xA#4 } : State).frame.wf = true := by decide

end Slice0
end

section
/-! PROOFS. The statements about spec/00_scope.md: what one tick is (R9). With `step_of_exec` the next two lemmas
give each answer of a tick without `rst` from the answer of its operation. -/

namespace Sys2Proof.Machine

theorem step_of_exec_fault {s : State} {r : Fault} (hrst : s.input.rst = false)
    (he : exec (decode s.state) s = .fault r) : step s = .fault r := by
  rw [step, if_neg (by simp [hrst]), he]

theorem step_of_exec_refused {s : State} {r : Refusal} (hrst : s.input.rst = false)
    (he : exec (decode s.state) s = .refused r) : step s = .refused r := by
  rw [step, if_neg (by simp [hrst]), he]

/-- The end of a tick writes the model's two environment fields only. -/
theorem sameRegisters_endTick (t : State) : SameRegisters t t.endTick := rfl

/-- What was the next tick's vector is this tick's, whether `stim` lists it or `Config.env` gives it. -/
theorem endTick_inputAt (t : State) (j : Nat) : t.endTick.inputAt j = t.inputAt (j + 1) :=
  inputAt_of_next (endTick_stim t) (endTick_tick t) j

/-- Settles O3, by the three answers the operation can give, and by what `endTick` writes. -/
theorem stepRunsTheDecodedOperation : Obligations.StepRunsTheDecodedOperation := by
  unfold Obligations.StepRunsTheDecodedOperation
  refine ⟨fun s i hrst hdecode => ?_, fun t => ⟨sameRegisters_endTick t, endTick_inputAt t⟩⟩
  subst hdecode
  cases he : exec (decode s.state) s with
  | next t => exact step_of_exec hrst he
  | fault r => exact step_of_exec_fault hrst he
  | refused r => exact step_of_exec_refused hrst he

end Sys2Proof.Machine
end

section
/-! PROOFS. What one operation can do, said once over the cases of `OpCase`: which operation follows it (R61), and what
it writes, register by register (spec/10_state.md R12 to R22). -/

namespace Sys2Proof.Machine

/-! ### The successors (R61) -/

/-- The operations that can follow an operation in a tick without reset. -/
def successors : Instr → List Instr
  | .rstWait => [.rstWait, .calculate, .halt]
  | .calculate => [.sample]
  | .sample => [.sample, .convert]
  | .convert => [.map]
  | .map => [.encode]
  | .encode => [.tx, .txEnd]
  | .tx => [.tx, .txEnd, .halt]
  | .txEnd => [.report, .halt]
  | .report => [.pace]
  | .pace => [.pace, .sample]
  | .halt | .reservedAB _ | .reservedCD _ | .reservedE => [.halt]

theorem successors_of_isReserved {i : Instr} (h : i.isReserved = true) : successors i = [.halt] := by
  cases i with
  | reservedAB code => rfl
  | reservedCD code => rfl
  | reservedE => rfl
  | _ => exact absurd h (by simp [Instr.isReserved])

theorem opCase_successor {s u : State} (h : OpCase s u) : decode u.state ∈ successors (decode s.state) := by
  cases h with
  | encode p hs _ => cases p <;> simp [hs, successors]
  | txLast p hs _ _ _ _ => cases p <;> simp [hs, successors]
  | txFault hs _ => rcases hs with hs | hs <;> simp [hs, successors]
  | reserved hs => simp [successors_of_isReserved hs]
  | _ => simp [*, successors]

/-- What the table has of every code and its successors holds of an operation's code and of the operation it leads to. -/
theorem opCase_of_successors {P : StateCode → Instr → Prop} {s u : State} (h : OpCase s u)
    (hP : ∀ c, ∀ i ∈ successors (decode c), P c i) : P s.state (decode u.state) := hP _ _ (opCase_successor h)

theorem opCase_code_legal {s u : State} (h : OpCase s u) : (decode u.state).isReserved = false :=
  opCase_of_successors (P := fun _ i => i.isReserved = false) h (by decide)

theorem opCase_rstWait_entry {s u : State} (h : OpCase s u) (hu : u.state = encode .rstWait) :
    s.state = encode .rstWait :=
  opCase_of_successors (P := fun c i => i = .rstWait → c = encode .rstWait) h (by decide) (by rw [hu]; rfl)

theorem opCase_calculate_entry {s u : State} (h : OpCase s u) (hu : u.state = encode .calculate) :
    s.state = encode .rstWait :=
  opCase_of_successors (P := fun c i => i = .calculate → c = encode .rstWait) h (by decide) (by rw [hu]; rfl)

theorem opCase_afterCalc_entry {s u : State} (h : OpCase s u) :
    afterCalc (decode u.state) = true → s.state = encode .calculate ∨ afterCalc (decode s.state) = true :=
  opCase_of_successors (P := fun c i => afterCalc i = true → c = encode .calculate ∨ afterCalc (decode c) = true) h
    (by decide)

theorem opCase_afterConvert_entry {s u : State} (h : OpCase s u) :
    afterConvert (decode u.state) = true → s.state = encode .convert ∨ afterConvert (decode s.state) = true :=
  opCase_of_successors (P := fun c i => afterConvert i = true → c = encode .convert ∨ afterConvert (decode c) = true) h
    (by decide)

theorem opCase_afterMap_entry {s u : State} (h : OpCase s u) :
    afterMap (decode u.state) = true → s.state = encode .map ∨ afterMap (decode s.state) = true :=
  opCase_of_successors (P := fun c i => afterMap i = true → c = encode .map ∨ afterMap (decode c) = true) h (by decide)

theorem opCase_afterEncode_entry {s u : State} (h : OpCase s u) :
    afterEncode (decode u.state) = true → s.state = encode .encode ∨ afterEncode (decode s.state) = true :=
  opCase_of_successors (P := fun c i => afterEncode i = true → c = encode .encode ∨ afterEncode (decode c) = true) h
    (by decide)

/-! ### The results fit their registers (R38) -/

theorem toNat_ticks {ns : Nat} (h : ns ≤ 850) (f : Megahertz) :
    (BitVec.ofNat 16 (ticksOf ns f.toNat)).toNat = ns * f.toNat / 1000 := by
  have hmul : ns * f.toNat ≤ 850 * 65535 := Nat.mul_le_mul h (by omega)
  rw [BitVec.toNat_ofNat, ticksOf, Nat.mod_eq_of_lt (by omega)]

theorem toNat_millivolts (raw : AdcCode) :
    (BitVec.ofNat 12 (millivoltsOf raw.toNat)).toNat = raw.toNat * 3300 / 4095 := by
  rw [BitVec.toNat_ofNat, millivoltsOf, Config.vrefMv, Config.adcMax, Nat.mod_eq_of_lt (by omega)]

/-- A channel is at most 255: `x` is at most `V_HI_MV - V_LO_MV`. -/
theorem toNat_channel {x : Nat} (h : x ≤ 2300) : (BitVec.ofNat 8 (channelOf x)).toNat = channelOf x := by
  rw [BitVec.toNat_ofNat, channelOf, Config.vHiMv, Config.vLoMv, Nat.mod_eq_of_lt (by omega)]

theorem clampedMv_bounds (mv : Nat) : 500 ≤ clampedMv mv ∧ clampedMv mv ≤ 2800 := by
  rw [clampedMv, clamp, Config.vHiMv, Config.vLoMv]
  omega

theorem toNat_red (mv : Nat) : (BitVec.ofNat 8 (redOf mv)).toNat = redOf mv :=
  toNat_channel (by have := clampedMv_bounds mv; rw [Config.vHiMv]; omega)

theorem toNat_blue (mv : Nat) : (BitVec.ofNat 8 (blueOf mv)).toNat = blueOf mv :=
  toNat_channel (by have := clampedMv_bounds mv; rw [Config.vLoMv]; omega)

theorem toNat_paceTicks (f : Megahertz) : (BitVec.ofNat 32 (paceTicks f.toNat)).toNat = 10000 * f.toNat := by
  rw [BitVec.toNat_ofNat, paceTicks, Config.paceUs, Nat.mod_eq_of_lt (by omega)]

/-! ### The writers of each register -/

theorem opCase_clkMhzR {s u : State} (h : OpCase s u) :
    s.state = encode .rstWait ∧ u.state = encode .calculate ∨ u.clkMhzR = s.clkMhzR := by
  cases h with
  | latch hs _ _ => exact .inl ⟨hs, rfl⟩
  | _ => exact .inr (by simp)

theorem opCase_patterns {s u : State} (h : OpCase s u) :
    s.state = encode .calculate ∧ u.patternsValid = true ∧ HoldsPatterns u ∨
      s.state ≠ encode .calculate ∧ u.zeroHi = s.zeroHi ∧ u.zeroLo = s.zeroLo ∧ u.oneHi = s.oneHi ∧
        u.oneLo = s.oneLo ∧ u.patternsValid = s.patternsValid := by
  cases h with
  | calculate hs =>
    exact .inl ⟨hs, rfl, toNat_ticks (by decide) _, toNat_ticks (by decide) _, toNat_ticks (by decide) _,
      toNat_ticks (by decide) _⟩
  | _ => exact .inr ⟨fun hc => by simp_all [encode, decode, Instr.isReserved], by simp⟩

theorem opCase_raw {s u : State} (h : OpCase s u) :
    s.state = encode .sample ∧ u.state = encode .convert ∨ u.raw = s.raw := by
  cases h with
  | sampled hs _ => exact .inl ⟨hs, rfl⟩
  | _ => exact .inr (by simp)

theorem opCase_voltage {s u : State} (h : OpCase s u) :
    s.state = encode .convert ∧ u.voltage.toNat = s.raw.toNat * 3300 / 4095 ∨
      s.state ≠ encode .convert ∧ u.voltage = s.voltage := by
  cases h with
  | convert hs => exact .inl ⟨hs, toNat_millivolts s.raw⟩
  | _ => exact .inr ⟨fun hc => by simp_all [encode, decode, Instr.isReserved], by simp⟩

theorem opCase_colour {s u : State} (h : OpCase s u) :
    s.state = encode .map ∧ u.red.toNat = redOf s.voltage.toNat ∧ u.blue.toNat = blueOf s.voltage.toNat ∧ u.green = 0 ∨
      s.state ≠ encode .map ∧ u.red = s.red ∧ u.green = s.green ∧ u.blue = s.blue := by
  cases h with
  | map hs => exact .inl ⟨hs, toNat_red _, toNat_blue _, rfl⟩
  | _ => exact .inr ⟨fun hc => by simp_all [encode, decode, Instr.isReserved], by simp⟩

theorem opCase_frame {s u : State} (h : OpCase s u) :
    s.state = encode .encode ∧ u.frame = encodedFrame s ∨ s.state ≠ encode .encode ∧ u.frame = s.frame := by
  cases h with
  | encode p hs _ => exact .inl ⟨hs, by simp⟩
  | _ => exact .inr ⟨fun hc => by simp_all [encode, decode, Instr.isReserved], by simp⟩

theorem opCase_position {s u : State} (h : OpCase s u) :
    (s.state = encode .encode ∨ s.state = encode .tx) ∨
      u.txSlot = s.txSlot ∧ u.txPhase = s.txPhase ∧ u.txCnt = s.txCnt := by
  cases h with
  | encode p hs _ => exact .inl (.inl hs)
  | txWithin hs _ _ _ => exact .inl (.inr hs)
  | txLast p hs _ _ _ _ => exact .inl (.inr hs)
  | _ => exact .inr ⟨rfl, rfl, rfl⟩

theorem opCase_paceCnt {s u : State} (h : OpCase s u) :
    s.state = encode .report ∧ u.paceCnt.toNat = 10000 * s.clkMhzR.toNat ∨
      s.state = encode .pace ∧ u.paceCnt.toNat ≤ s.paceCnt.toNat ∨ u.paceCnt = s.paceCnt := by
  cases h with
  | report hs => exact .inl ⟨hs, toNat_paceTicks s.clkMhzR⟩
  | paceDone hs _ => exact .inr (.inl ⟨hs, Nat.zero_le _⟩)
  | pacing hs hp =>
    refine .inr (.inl ⟨hs, ?_⟩)
    rw [goto_paceCnt, BitVec.toNat_ofNat]
    exact (Nat.mod_le _ _).trans (Nat.sub_le _ _)
  | _ => exact .inr (.inr (by simp))

/-- A fault is recorded by `raiseFault` alone, and otherwise HALT is neither entered nor left. -/
theorem opCase_fault {s u : State} (h : OpCase s u) :
    (∃ c, c ≠ .noFault ∧ u = raiseFault c s) ∨
      u.fault = s.fault ∧ (u.state = encode .halt ↔ s.state = encode .halt) := by
  cases h with
  | initFail _ _ => exact .inl ⟨.initFail, by decide, rfl⟩
  | txFault _ _ => exact .inl ⟨.txFault, by decide, rfl⟩
  | reserved _ => exact .inl ⟨.illegalState, by decide, rfl⟩
  | encode p hs _ => exact .inr ⟨handOver_fault _ _, by cases p <;> simp [hs, encode]⟩
  | txLast p hs _ _ _ _ => exact .inr ⟨handOver_fault _ _, by cases p <;> simp [hs, encode]⟩
  | _ => exact .inr ⟨rfl, by simp [*, encode]⟩

end Sys2Proof.Machine
end

section
/-! PROOFS. The invariant of the states a run from reset reaches: each of its fields is kept by every operation, from
what the operation writes; so every tick keeps it. -/

namespace Sys2Proof.Machine

/-! ### The transmit position (R20, R122) -/

/-- What the invariant says of the transmit position: the position of `TX`, of `TX_END` and of the states between. -/
structure PositionOk (s : State) : Prop where
  slot_in_range : s.txSlot.toNat ≤ 24
  sending : s.state = encode .tx → TxPosition s
  ended : s.state = encode .txEnd → s.txSlot.toNat = endSlot s.frame
  idle : s.state ≠ encode .tx → s.state ≠ encode .halt → s.txPhase = .high ∧ s.txCnt = 0

/-- HALT keeps any position (R152). -/
theorem positionOk_halted {s : State} (hslot : s.txSlot.toNat ≤ 24) (hs : s.state = encode .halt) : PositionOk s where
  slot_in_range := hslot
  sending := fun h => absurd (hs.symm.trans h) (by decide)
  ended := fun h => absurd (hs.symm.trans h) (by decide)
  idle := fun _ h => absurd hs h

/-- Outside TX and TX_END the position stands at the start of a phase. -/
theorem positionOk_idle {s : State} (hslot : s.txSlot.toNat ≤ 24) (htx : s.state ≠ encode .tx)
    (hend : s.state ≠ encode .txEnd) (hidle : s.txPhase = .high ∧ s.txCnt = 0) : PositionOk s where
  slot_in_range := hslot
  sending := fun h => absurd h htx
  ended := fun h => absurd h hend
  idle := fun _ _ => hidle

theorem toNat_slotIndex {k : Nat} (h : k ≤ 24) : (BitVec.ofNat 5 k).toNat = k := by
  rw [BitVec.toNat_ofNat, Nat.mod_eq_of_lt (by omega)]

/-- The hand-over of a search over a frame that ends (R91, R124). -/
theorem handOver_positionOk {s : State} {p : SeekResult} {w : List Bool} (hp : Sends s.frame p w)
    (hz : s.frame.slot 24 = Slot.zero) (hc : s.txCnt = 0) : PositionOk (handOver p s) := by
  have hend := endSlot_le_of_terminator hz
  cases hp with
  | ended =>
    have hslot := toNat_slotIndex hend
    exact {
      slot_in_range := hslot.trans_le hend
      sending := fun h => absurd h (by decide : encode .txEnd ≠ encode .tx)
      ended := fun _ => hslot
      idle := fun _ _ => ⟨rfl, hc⟩ }
  | position k ph hk hd =>
    have hslot := toNat_slotIndex (k := k) (by omega)
    have hpos : TxPosition (handOver (.position k ph) s) := by
      constructor
      · rw [handOver_position_txSlot, handOver_frame, hslot]
        exact hk
      · rw [handOver_position_txSlot, handOver_position_txPhase, handOver_frame, handOver_txCnt, hslot, hc]
        exact hd
    exact {
      slot_in_range := hslot.trans_le (by omega)
      sending := fun _ => hpos
      ended := fun h => absurd h (by decide : encode .tx ≠ encode .txEnd)
      idle := fun h => absurd rfl h }

/-- A tick inside a phase (R124). -/
theorem txWithin_positionOk {s : State} (hslot : s.txSlot.toNat ≤ 24) (hpos : TxPosition s)
    (hd : s.txCnt.toNat + 1 < phaseTicks s) :
    PositionOk (goto .tx { s with txCnt := BitVec.ofNat 16 (s.txCnt.toNat + 1) }) where
  slot_in_range := hslot
  sending := fun _ => ⟨hpos.before_end, by
    rw [goto_txCnt, BitVec.toNat_ofNat]
    exact (Nat.mod_le _ _).trans_lt hd⟩
  ended := fun h => absurd h (by decide : encode .tx ≠ encode .txEnd)
  idle := fun h => absurd rfl h

theorem opCase_positionOk {s u : State} (h : OpCase s u) (hi : Invariant s) : PositionOk u := by
  cases h with
  | encode p hs hp =>
    have hz := encodedFrame_terminator hi.frame_canonical
    generalize encodedFrame s = m at hp hz
    have hsends := seek_zero_sends hz
    rw [hp] at hsends
    exact handOver_positionOk hsends hz rfl
  | txLast p hs _ _ _ hp =>
    have hsends := seek_after_sends hi.terminator_zero (hi.tx_position hs).before_end s.txPhase
    rw [← nextPhase, hp] at hsends
    exact handOver_positionOk hsends hi.terminator_zero rfl
  | txWithin hs _ hslot hd => exact txWithin_positionOk hslot (hi.tx_position hs) hd
  | initFail _ _ | txFault _ _ | reserved _ | halt _ => exact positionOk_halted hi.slot_in_range rfl
  | _ =>
    exact positionOk_idle hi.slot_in_range (by simp [encode]) (by simp [encode])
      (hi.tx_idle (by simp [*, encode]) (by simp [*, encode]))

/-! ### The invariant -/

theorem opCase_fault_iff_halt {s u : State} (h : OpCase s u) (hi : Invariant s) :
    u.fault ≠ .noFault ↔ u.state = encode .halt := by
  rcases opCase_fault h with ⟨c, hc, rfl⟩ | ⟨hf, hs⟩
  · refine ⟨fun _ => rfl, fun _ => ?_⟩
    rw [raiseFault_fault]
    split
    · exact hc
    · assumption
  · rw [hf, hs]
    exact hi.fault_iff_halt

theorem opCase_pace_in_range {s u : State} (h : OpCase s u) (hi : Invariant s) :
    u.paceCnt.toNat ≤ 10000 * u.clkMhzR.toNat := by
  have hpace : u.paceCnt.toNat ≤ 10000 * s.clkMhzR.toNat := by
    rcases opCase_paceCnt h with ⟨_, hp⟩ | ⟨_, hp⟩ | hp
    · exact hp.le
    · exact hp.trans hi.pace_in_range
    · rw [hp]
      exact hi.pace_in_range
  rcases opCase_clkMhzR h with ⟨hs, _⟩ | hf
  · rw [hi.before_latch hs] at hpace
    exact hpace.trans (Nat.zero_le _)
  · rwa [hf]

theorem opCase_holdsPatterns {s u : State} (h : OpCase s u) (hi : Invariant s) (hv : u.patternsValid = true) :
    HoldsPatterns u := by
  rcases opCase_patterns h with ⟨_, _, hp⟩ | ⟨_, hzh, hzl, hoh, hol, hvs⟩
  · exact hp
  · rw [hvs] at hv
    rcases opCase_clkMhzR h with ⟨hs, _⟩ | hf
    · rw [(hi.before_calc (.inl hs)).1] at hv
      cases hv
    · exact (hi.patterns hv).of_fields hzh hzl hoh hol hf

theorem opCase_before_calc {s u : State} (h : OpCase s u) (hi : Invariant s)
    (hu : u.state = encode .rstWait ∨ u.state = encode .calculate) : u.patternsValid = false ∧ u.frame = [] := by
  have hs : s.state = encode .rstWait := hu.elim (opCase_rstWait_entry h) (opCase_calculate_entry h)
  obtain ⟨hv, hm⟩ := hi.before_calc (.inl hs)
  rcases opCase_patterns h with ⟨hc, _⟩ | ⟨_, _, _, _, _, hvs⟩
  · exact absurd (hs.symm.trans hc) (by decide)
  rcases opCase_frame h with ⟨he, _⟩ | ⟨_, hms⟩
  · exact absurd (hs.symm.trans he) (by decide)
  exact ⟨hvs.trans hv, hms.trans hm⟩

theorem opCase_before_latch {s u : State} (h : OpCase s u) (hi : Invariant s) (hu : u.state = encode .rstWait) :
    u.clkMhzR = 0 := by
  rcases opCase_clkMhzR h with ⟨_, hc⟩ | hf
  · exact absurd (hu.symm.trans hc) (by decide)
  · exact hf.trans (hi.before_latch (opCase_rstWait_entry h hu))

theorem opCase_calc_done {s u : State} (h : OpCase s u) (hi : Invariant s) (hu : afterCalc (decode u.state) = true) :
    u.patternsValid = true := by
  rcases opCase_patterns h with ⟨_, hv, _⟩ | ⟨hs, _, _, _, _, hv⟩
  · exact hv
  · exact hv.trans (hi.calc_done ((opCase_afterCalc_entry h hu).resolve_left hs))

theorem opCase_voltage_in_range {s u : State} (h : OpCase s u) (hi : Invariant s) : u.voltage.toNat ≤ 3300 := by
  rcases opCase_voltage h with ⟨_, hv⟩ | ⟨_, hv⟩
  · omega
  · rw [hv]
    exact hi.voltage_in_range

theorem opCase_voltage_current {s u : State} (h : OpCase s u) (hi : Invariant s)
    (hu : afterConvert (decode u.state) = true) : u.voltage.toNat = u.raw.toNat * 3300 / 4095 := by
  rcases opCase_raw h with ⟨_, hc⟩ | hr
  · rw [hc] at hu
    cases hu
  rw [hr]
  rcases opCase_voltage h with ⟨_, hv⟩ | ⟨hs, hv⟩
  · exact hv
  · rw [hv]
    exact hi.voltage_current ((opCase_afterConvert_entry h hu).resolve_left hs)

theorem opCase_green_zero {s u : State} (h : OpCase s u) (hi : Invariant s) : u.green = 0 := by
  rcases opCase_colour h with ⟨_, _, _, hg⟩ | ⟨_, _, hg, _⟩
  · exact hg
  · exact hg.trans hi.green_zero

theorem opCase_colour_current {s u : State} (h : OpCase s u) (hi : Invariant s)
    (hu : afterMap (decode u.state) = true) :
    u.red.toNat = redOf u.voltage.toNat ∧ u.blue.toNat = blueOf u.voltage.toNat := by
  have hentry := opCase_afterMap_entry h hu
  have hv : u.voltage = s.voltage := by
    rcases opCase_voltage h with ⟨hs, _⟩ | ⟨_, hv⟩
    · rw [hs] at hentry
      exact absurd hentry (by decide)
    · exact hv
  rw [hv]
  rcases opCase_colour h with ⟨_, hr, hb, _⟩ | ⟨hs, hr, _, hb⟩
  · exact ⟨hr, hb⟩
  · rw [hr, hb]
    exact hi.colour_current (hentry.resolve_left hs)

/-! ### The frame (R92, R96) -/

theorem opCase_frame_canonical {s u : State} (h : OpCase s u) (hi : Invariant s) : u.frame.wf = true := by
  rcases opCase_frame h with ⟨_, hm⟩ | ⟨_, hm⟩
  · rw [hm]
    exact encodedFrame_wf hi.frame_canonical
  · rw [hm]
    exact hi.frame_canonical

theorem opCase_terminator_zero {s u : State} (h : OpCase s u) (hi : Invariant s) : u.frame.slot 24 = Slot.zero := by
  rcases opCase_frame h with ⟨_, hm⟩ | ⟨_, hm⟩
  · rw [hm]
    exact encodedFrame_terminator hi.frame_canonical
  · rw [hm]
    exact hi.terminator_zero

/-- With green 0 the first eight slots select the zero-pattern (R96). -/
theorem slotOperand_dataSlot {s : State} (hg : s.green = 0) {k : Nat} (hk : k < 24) :
    slotOperand s k = zeroPattern s ∨ slotOperand s k = onePattern s ∧ 8 ≤ k := by
  rw [slotOperand, Config.terminator, if_pos hk]
  split
  · next hsel =>
    refine .inr ⟨rfl, ?_⟩
    by_contra hlt
    simp [sel, Nat.div_eq_of_lt (Nat.not_le.mp hlt), channel, hg] at hsel
  · exact .inl rfl

theorem opCase_data_slots {s u : State} (h : OpCase s u) (hi : Invariant s) :
    u.frame = [] ∨ ∀ k < 24, u.frame.slot k = zeroPattern u ∨ u.frame.slot k = onePattern u ∧ 8 ≤ k := by
  rcases opCase_patterns h with ⟨hs, _⟩ | ⟨_, hzh, hzl, hoh, hol, _⟩
  · rcases opCase_frame h with ⟨he, _⟩ | ⟨_, hm⟩
    · exact absurd (hs.symm.trans he) (by decide)
    · exact .inl (hm.trans (hi.before_calc (.inr hs)).2)
  · rw [zeroPattern, onePattern, hzh, hzl, hoh, hol]
    rcases opCase_frame h with ⟨_, hm⟩ | ⟨_, hm⟩
    · refine .inr fun k hk => ?_
      rw [hm, encodedFrame_slot hi.frame_canonical, if_pos (by omega)]
      exact slotOperand_dataSlot hi.green_zero hk
    · rw [hm]
      exact hi.data_slots

/-- After ENCODE neither the patterns nor the colour change before the next MAP. -/
theorem opCase_slotOperand {s u : State} (h : OpCase s u) (hu : afterEncode (decode u.state) = true) (k : Nat) :
    slotOperand u k = slotOperand s k := by
  have hentry := opCase_afterEncode_entry h hu
  rcases opCase_patterns h with ⟨hs, _⟩ | ⟨_, hzh, hzl, hoh, hol, _⟩
  · rw [hs] at hentry
    exact absurd hentry (by decide)
  rcases opCase_colour h with ⟨hs, _⟩ | ⟨_, hr, hg, hb⟩
  · rw [hs] at hentry
    exact absurd hentry (by decide)
  simp only [slotOperand, sel, channel, zeroPattern, onePattern, hzh, hzl, hoh, hol, hr, hg, hb]
  rfl

theorem opCase_frame_current {s u : State} (h : OpCase s u) (hi : Invariant s)
    (hu : afterEncode (decode u.state) = true) : ∀ k < 25, u.frame.slot k = slotOperand u k := by
  intro k hk
  rw [opCase_slotOperand h hu]
  rcases opCase_frame h with ⟨_, hm⟩ | ⟨hs, hm⟩
  · rw [hm, encodedFrame_slot hi.frame_canonical, if_pos hk]
  · rw [hm]
    exact hi.frame_current ((opCase_afterEncode_entry h hu).resolve_left hs) k hk

/-- Every operation keeps the invariant. -/
theorem opCase_invariant {s u : State} (h : OpCase s u) (hi : Invariant s) : Invariant u :=
  have hpos := opCase_positionOk h hi
  { frame_canonical := opCase_frame_canonical h hi
    code_legal := opCase_code_legal h
    slot_in_range := hpos.slot_in_range
    voltage_in_range := opCase_voltage_in_range h hi
    green_zero := opCase_green_zero h hi
    pace_in_range := opCase_pace_in_range h hi
    fault_iff_halt := opCase_fault_iff_halt h hi
    patterns := opCase_holdsPatterns h hi
    before_calc := opCase_before_calc h hi
    before_latch := opCase_before_latch h hi
    calc_done := opCase_calc_done h hi
    data_slots := opCase_data_slots h hi
    terminator_zero := opCase_terminator_zero h hi
    voltage_current := opCase_voltage_current h hi
    colour_current := opCase_colour_current h hi
    frame_current := opCase_frame_current h hi
    tx_position := hpos.sending
    tx_ended := hpos.ended
    tx_idle := hpos.idle }

/-- After reset every register is 0, and RST_WAIT is neither HALT nor past CALC. -/
theorem reset_invariant : Invariant State.reset where
  frame_canonical := rfl
  code_legal := by decide
  slot_in_range := by decide
  voltage_in_range := by decide
  green_zero := rfl
  pace_in_range := by decide
  fault_iff_halt := by decide
  patterns := fun h => absurd h (by decide)
  before_calc := fun _ => ⟨rfl, rfl⟩
  before_latch := fun _ => rfl
  calc_done := fun h => absurd h (by decide)
  data_slots := .inl rfl
  terminator_zero := rfl
  voltage_current := fun h => absurd h (by decide)
  colour_current := fun h => absurd h (by decide)
  frame_current := fun h => absurd h (by decide)
  tx_position := fun h => absurd h (by decide)
  tx_ended := fun h => absurd h (by decide)
  tx_idle := fun _ _ => ⟨rfl, rfl⟩

/-- Settles O49: the invariant speaks of the registers alone, and those are the reset state's. -/
theorem resetMeetsTheInvariant : Obligations.ResetMeetsTheInvariant := by
  unfold Obligations.ResetMeetsTheInvariant
  exact fun vs n => reset_invariant.of_sameRegisters rfl

/-- Settles O50: a reset tick leads to the reset state, any other tick is an operation and the end of the tick. -/
theorem stepKeepsTheInvariant : Obligations.StepKeepsTheInvariant := by
  unfold Obligations.StepKeepsTheInvariant
  intro s hi
  cases hr : s.input.rst with
  | true => exact ⟨_, step_of_reset hr, resetMeetsTheInvariant s.stim.tail (s.tick + 1)⟩
  | false =>
    obtain ⟨u, hu⟩ := exec_answers hi.slot_in_range
    exact ⟨_, step_of_exec hr hu, (opCase_invariant (opCase_of_exec hu) hi).of_sameRegisters (sameRegisters_endTick u)⟩

end Sys2Proof.Machine
end

section
/-! PROOFS. The statements about the ports and the registers of spec/10_state.md: the first fault (R22), the writers of
each register (R12 to R22), the sampled inputs (R10), the outputs (R11) and the status word (R25). -/

namespace Sys2Proof.Machine

/-! ### The first fault and the writers -/

/-- Settles O24: a tick raises a fault or leaves `fault` alone, and `raise` keeps the first code. -/
theorem firstFaultIsKept : Obligations.FirstFaultIsKept := by
  unfold Obligations.FirstFaultIsKept
  intro s t h
  rcases step_cases h with ⟨hrst, rfl⟩ | ⟨hrst, u, hu, rfl⟩
  · exact ⟨fun _ => rfl, by simp [hrst], by simp [hrst]⟩
  · rcases opCase_fault (opCase_of_exec hu) with ⟨c, _, rfl⟩ | ⟨hf, _⟩
    · exact ⟨by simp [hrst], fun _ hs => if_neg hs, fun _ _ => rfl⟩
    · exact ⟨by simp [hrst], fun _ _ => hf, fun _ hne => absurd hf hne⟩

/-- Settles O28, clause by clause from the register's own lemma: it is written by the named operation or kept. -/
theorem eachRegisterHasItsWriters : Obligations.EachRegisterHasItsWriters := by
  unfold Obligations.EachRegisterHasItsWriters
  intro s t h hrst
  obtain ⟨u, hu, rfl⟩ := opCase_of_step h hrst
  refine ⟨fun hne => ?_, fun hne => ?_, fun hne => ?_, fun hne => ?_, fun hne => ?_, fun ⟨k, hne⟩ => ?_, fun hne => ?_,
    fun hne => ?_, fun hne => ?_⟩
  · exact ((opCase_clkMhzR hu).resolve_right hne).1
  · rcases opCase_patterns hu with ⟨hs, hv, _⟩ | ⟨_, hzh, hzl, hoh, hol, hv⟩
    · exact ⟨hs, hv⟩
    · simp [hzh, hzl, hoh, hol, hv] at hne
  · exact ((opCase_raw hu).resolve_right hne).1
  · exact ((opCase_voltage hu).resolve_right fun hk => hne hk.2).1
  · rcases opCase_colour hu with ⟨hs, _, _, hg⟩ | ⟨_, hr, hg, hb⟩
    · exact ⟨hs, hg⟩
    · simp [hr, hg, hb] at hne
  · rcases opCase_frame hu with ⟨hs, _⟩ | ⟨_, hm⟩
    · exact hs
    · simp [hm] at hne
  · rcases opCase_position hu with hs | ⟨hslot, hph, hcnt⟩
    · exact hs
    · simp [hslot, hph, hcnt] at hne
  · rcases opCase_paceCnt hu with ⟨hs, _⟩ | ⟨hs, _⟩ | hp
    · exact .inl hs
    · exact .inr hs
    · exact absurd hp hne
  · obtain ⟨-, -, hhalt⟩ := firstFaultIsKept s _ h
    exact hhalt hrst hne

/-! ### The inputs (R10) -/

/-- The end of a tick on what an operation answers. -/
def endOutcome : Host.Outcome State Fault Refusal → Host.Outcome State Fault Refusal
  | .next t => .next t.endTick
  | .fault r => .fault r
  | .refused r => .refused r

theorem step_eq (s : State) :
    step s = if s.input.rst then .next (resetTick s).endTick else endOutcome (exec (decode s.state) s) := rfl

@[simp] theorem input_listed (s : State) (v : Inputs) (vs : List Inputs) : State.input { s with stim := v :: vs } = v := rfl

theorem endTick_handOver (p : SeekResult) (s : State) : (handOver p s).endTick = handOver p s.endTick := by
  cases p <;> rfl

theorem encodedFrame_of_stim (s : State) (vs : List Inputs) : encodedFrame { s with stim := vs } = encodedFrame s := rfl

/-- The vector of this tick reaches an operation through the ports it samples alone. -/
theorem exec_of_agreeOnSampled {i : Instr} {v w : Inputs} (h : AgreeOnSampled i v w) (s : State) (vs : List Inputs) :
    endOutcome (exec i { s with stim := v :: vs }) = endOutcome (exec i { s with stim := w :: vs }) := by
  obtain ⟨_, hports⟩ := h
  cases i with
  | rstWait =>
    obtain ⟨hinit, hcfg, hclock⟩ := hports
    cases hi : v.initFail with
    | true =>
      simp only [exec, execRstWait, input_listed, ← hinit, hi]
      rfl
    | false =>
      cases hc : v.cfgValid with
      | true =>
        simp only [exec, execRstWait, input_listed, ← hinit, ← hcfg, hi, hc, hclock hc]
        rfl
      | false =>
        simp only [exec, execRstWait, input_listed, ← hinit, ← hcfg, hi, hc]
        rfl
  | sample =>
    obtain ⟨hvalid, hdata⟩ := hports
    cases hv : v.adcValid with
    | true =>
      simp only [exec, execSample, input_listed, ← hvalid, hv, hdata hv]
      rfl
    | false =>
      simp only [exec, execSample, input_listed, ← hvalid, hv]
      rfl
  | encode =>
    simp only [exec, execEncode, endOutcome, endTick_handOver, encodedFrame_of_stim]
    rfl
  | tx =>
    simp only [exec, execTx, input_listed, ← show v.txFault = w.txFault from hports, currentDur]
    split_ifs
    · rfl
    cases (memRead s.frame s.txSlot.toNat).map (·.dur s.txPhase) with
    | none => rfl
    | some d =>
      by_cases hd : s.txCnt.toNat + 1 < d.toNat
      · simp only [if_pos hd]
        rfl
      · simp only [if_neg hd, endOutcome, endTick_handOver]
        rfl
  | txEnd =>
    have hfault : v.txFault = w.txFault := hports
    cases hf : v.txFault <;> simp only [exec, execTxEnd, input_listed, ← hfault, hf] <;> rfl
  | pace =>
    simp only [exec, execPace]
    split_ifs <;> rfl
  | _ => rfl

/-- Settles O27: a reset tick drops the vector, and any other hands it to the operation of `state`. -/
theorem unsampledInputsHaveNoEffect : Obligations.UnsampledInputsHaveNoEffect := by
  unfold Obligations.UnsampledInputsHaveNoEffect
  intro s v w vs h
  rw [step_eq, step_eq, input_listed, input_listed, h.1, exec_of_agreeOnSampled h]
  rfl

/-! ### The outputs (R11) and the status word (R25) -/

theorem isHalted_eq_decide (s : State) : isHalted s = decide (s.state = 0xF#4) := rfl

/-- Settles O30: each port is the function of the registers that `outputs` writes down, and `outputs` reads no other
field. -/
theorem outputsAreFunctionsOfTheRegisters : Obligations.OutputsAreFunctionsOfTheRegisters := by
  unfold Obligations.OutputsAreFunctionsOfTheRegisters
  intro s
  refine ⟨?_, ?_, ?_, rfl, rfl, rfl, rfl, ?_, rfl, fun _ _ => rfl⟩
  · simp [outputs, encode]
  · simp [outputs, encode]
  · simp [outputs, encode]
  · simp [outputs, isHalted_eq_decide]

/-- Settles O31: the word is a concatenation, so a field is read off once the fields below it are passed over. -/
theorem statusWordLayout : Obligations.StatusWordLayout := by
  unfold Obligations.StatusWordLayout
  refine ⟨fun s => ⟨?state, ?valid, ?halted, ?fault, ?slot, ?phase, ?zeros, ?clk⟩, by decide⟩
  case state => simp only [statusWord, BitVec.extractLsb'_append_eq_right]
  case valid =>
    simp only [statusWord, BitVec.getLsbD_append]
    simp
  case halted =>
    simp only [statusWord, BitVec.getLsbD_append]
    simp [isHalted_eq_decide]
  case phase =>
    simp only [statusWord, BitVec.getLsbD_append]
    cases s.txPhase <;> simp [Phase.bit]
  case fault =>
    simp only [statusWord, BitVec.extractLsb'_append_eq_of_le, Nat.reduceLeDiff, Nat.reduceSub,
      BitVec.extractLsb'_append_eq_right]
    rfl
  case clk =>
    simp only [statusWord, BitVec.extractLsb'_append_eq_of_le, Nat.reduceLeDiff, Nat.reduceSub,
      BitVec.extractLsb'_eq_self]
  all_goals
    simp only [statusWord, BitVec.extractLsb'_append_eq_of_le, Nat.reduceLeDiff, Nat.reduceSub,
      BitVec.extractLsb'_append_eq_right]

end Sys2Proof.Machine
end

section
/-! PROOFS. The statements about spec/20_memory.md: no slot outside the frame buffer exists (R40), and every tick keeps
the buffer's canonical form and a `tx_slot` of a slot (R45), from states that no run reaches too. -/

namespace Sys2Proof.Machine

/-- Settles O15: slot indices above 24 read nothing, and TX stops on such a read. -/
theorem txOutsideTheFrameStops : Obligations.TxOutsideTheFrameStops := by
  unfold Obligations.TxOutsideTheFrameStops
  exact fun s hf hslot => ⟨memRead_of_ge hslot, execTx_outside hf hslot⟩

/-! ### The slot index (R45) -/

/-- The slot index a search answers, whether it found a phase or the frame's end. -/
def SeekResult.slot : SeekResult → Nat
  | .position k _ => k
  | .ended k => k

theorem handOver_txSlot (p : SeekResult) (s : State) : (handOver p s).txSlot = BitVec.ofNat 5 p.slot := by
  cases p <;> rfl

/-- Wherever it starts, and on any frame, the search answers an existing slot (R123; log entry 6). -/
theorem seekLoop_slot_le (m : Memory) (fuel k : Nat) (ph : Phase) : (seekLoop m fuel k ph).slot ≤ 24 := by
  induction fuel generalizing k ph with
  | zero => exact Nat.le_refl 24
  | succ fuel ih =>
    rw [seekLoop]
    split_ifs with hend
    · exact Nat.le_refl 24
    · exact Nat.le_of_lt_succ (Nat.not_le.mp hend)
    · exact Nat.le_of_lt_succ (Nat.not_le.mp hend)
    · exact ih _ _

theorem handOver_seek_txSlot_le (m : Memory) (k : Nat) (ph : Phase) (s : State) :
    (handOver (seek m k ph) s).txSlot.toNat ≤ 24 := by
  have hle : (seek m k ph).slot ≤ 24 := seekLoop_slot_le m 51 k ph
  rw [handOver_txSlot, toNat_slotIndex hle]
  exact hle

/-- ENCODE and the last tick of a phase write `tx_slot` from a search, every other operation keeps it. -/
theorem opCase_txSlot_le {s u : State} (h : OpCase s u) (hslot : s.txSlot.toNat ≤ 24) : u.txSlot.toNat ≤ 24 := by
  cases h with
  | encode p _ hp => exact hp ▸ handOver_seek_txSlot_le _ _ _ _
  | txLast p _ _ _ _ hp => exact hp ▸ handOver_seek_txSlot_le _ _ _ _
  | _ => exact hslot

/-! ### The canonical form (log entry 4) -/

theorem opCase_frame_wf {s u : State} (h : OpCase s u) (hm : s.frame.wf = true) : u.frame.wf = true := by
  rcases opCase_frame h with ⟨_, hu⟩ | ⟨_, hu⟩
  · rw [hu]
    exact encodedFrame_wf hm
  · rw [hu]
    exact hm

/-- Settles O52: a reset tick writes the empty buffer and slot 0; any other tick is an operation, which answers and
keeps each of the three, and the end of the tick. -/
theorem stepKeepsTheFrameAndTheSlotRange : Obligations.StepKeepsTheFrameAndTheSlotRange := by
  unfold Obligations.StepKeepsTheFrameAndTheSlotRange
  intro s hm hslot
  cases hr : s.input.rst with
  | true => exact ⟨_, step_of_reset hr, reset_frame_wf, Nat.zero_le 24, by simp [Instr.isReserved]⟩
  | false =>
    obtain ⟨u, hu⟩ := exec_answers hslot
    have hc := opCase_of_exec hu
    have hframe := opCase_frame_wf hc hm
    have hindex := opCase_txSlot_le hc hslot
    have hcode := opCase_code_legal hc
    exact ⟨_, step_of_exec hr hu, hframe, hindex, hcode⟩

end Sys2Proof.Machine
end

section
/-! PROOFS. The statements about spec/30_encoding.md: the codes and what a tick does with them (R60, R62), the successor
table (R61), the slot, report and input words (R63, R65, R69) and the stimulus script (R70, R71). -/

namespace Sys2Proof

/-! ### The codes (R60, R62) -/

theorem decode_encode {i : Instr} (h : i.wf = true) : decode (encode i) = i := by
  cases i with
  | reservedAB code => exact Laws.RoundTrip.reservedAB code h
  | reservedCD code => exact Laws.RoundTrip.reservedCD code h
  | _ => rfl

theorem decode_wf (c : StateCode) : (decode c).wf = true := by
  revert c
  decide

end Sys2Proof

namespace Sys2Proof.Machine

/-- No tick writes a reserved code, whatever the state it starts from. -/
theorem step_code_legal {s t : State} (h : step s = .next t) : (decode t.state).isReserved = false := by
  rcases step_cases h with ⟨_, ht⟩ | ⟨_, u, hu, ht⟩
  · simp [ht, Instr.isReserved]
  · rw [ht, endTick_state]
    exact opCase_code_legal (opCase_of_exec hu)

theorem step_answers_of_isReserved {s : State} (h : (decode s.state).isReserved = true) : ∃ t, step s = .next t := by
  cases hr : s.input.rst with
  | true => exact ⟨_, step_of_reset hr⟩
  | false => exact ⟨_, step_of_exec hr (exec_of_isReserved h s)⟩

/-- Settles O1: a code's one operation is the decoded one, by the two round trips. -/
theorem everyCodeSelectsOneOperation : Obligations.EveryCodeSelectsOneOperation := by
  unfold Obligations.EveryCodeSelectsOneOperation
  refine ⟨fun c => ⟨decode c, ⟨decode_wf c, encode_decode c⟩, ?unique⟩, fun c => ⟨decode_wf c, encode_decode c⟩,
    fun i => decode_encode, isReserved_decode_iff, fun s t => step_code_legal, fun s => step_answers_of_isReserved⟩
  case unique =>
    rintro i ⟨hi, rfl⟩
    exact (decode_encode hi).symm

/-- Settles O2: the table is finite, and each of its rows is one evaluation of the decoder. -/
theorem tableCodesDecode : Obligations.TableCodesDecode := by
  unfold Obligations.TableCodesDecode
  decide

/-! ### Runs from reset (R62, R151) -/

theorem run_answers_of_invariant {s : State} (h : Invariant s) (n : Nat) : ∃ t, run n s = .next t ∧ Invariant t := by
  induction n generalizing s with
  | zero => exact ⟨s, rfl, h⟩
  | succ n ih =>
    obtain ⟨u, hu, hi⟩ := stepKeepsTheInvariant s h
    rw [run_succ_of_step hu]
    exact ih hi

/-- Settles O51: reset meets the invariant, under which every tick answers and keeps it. -/
theorem runsFromResetNeverStop : Obligations.RunsFromResetNeverStop := by
  unfold Obligations.RunsFromResetNeverStop
  exact fun n vs k => run_answers_of_invariant (resetMeetsTheInvariant vs k) n

/-! ### The successor table (R61) -/

/-- The code that the hand-over of a search result writes (R91, R124). -/
def SeekResult.code : SeekResult → StateCode
  | .position _ _ => encode .tx
  | .ended _ => encode .txEnd

theorem handOver_state (p : SeekResult) (s : State) : (handOver p s).state = p.code := by
  cases p <;> rfl

/-- The code an operation writes, as a function of the registers and the inputs: R61, the condition of ENCODE being that
of the search over the new frame. -/
def successorCode (s : State) : Instr → StateCode
  | .rstWait =>
    if s.input.initFail then encode .halt else if s.input.cfgValid then encode .calculate else encode .rstWait
  | .calculate => encode .sample
  | .sample => if s.input.adcValid then encode .convert else encode .sample
  | .convert => encode .map
  | .map => encode .encode
  | .encode => (seek (encodedFrame s) 0 .high).code
  | .tx =>
    if s.input.txFault then encode .halt
    else if s.txCnt.toNat + 1 < phaseTicks s then encode .tx
    else (nextPhase s).code
  | .txEnd => if s.input.txFault then encode .halt else encode .report
  | .report => encode .pace
  | .pace => if 1 < s.paceCnt.toNat then encode .pace else encode .sample
  | .halt | .reservedAB _ | .reservedCD _ | .reservedE => encode .halt

theorem successorCode_of_isReserved {i : Instr} (h : i.isReserved = true) (s : State) :
    successorCode s i = encode .halt := by
  cases i with
  | reservedAB _ | reservedCD _ | reservedE => rfl
  | _ => exact absurd h (by simp [Instr.isReserved])

theorem successorCode_encode (s : State) : successorCode s .encode = (seek (encodedFrame s) 0 .high).code := rfl

theorem successorCode_tx_within {s : State} (hf : s.input.txFault = false) (hd : s.txCnt.toNat + 1 < phaseTicks s) :
    successorCode s .tx = encode .tx := by
  simp [successorCode, hf, hd]

theorem successorCode_tx_last {s : State} (hf : s.input.txFault = false) (hd : phaseTicks s ≤ s.txCnt.toNat + 1) :
    successorCode s .tx = (nextPhase s).code := by
  simp [successorCode, hf, Nat.not_lt.mpr hd]

/-- Every operation writes the code of the table. -/
theorem opCase_state {s u : State} (h : OpCase s u) : u.state = successorCode s (decode s.state) := by
  cases h with
  | encode p hs hp => rw [handOver_state, hs, ← hp, decode_encode_encode, successorCode_encode]
  | txFault hs hf => rcases hs with hs | hs <;> simp [hs, hf, successorCode]
  | txWithin hs hf _ hd => rw [goto_state, hs, decode_encode_tx, successorCode_tx_within hf hd]
  | txLast p hs hf _ hd hp => rw [handOver_state, hs, ← hp, decode_encode_tx, successorCode_tx_last hf hd]
  | paceDone hs hp => simp [hs, successorCode, Nat.not_lt.mpr hp]
  | reserved hs => rw [successorCode_of_isReserved hs, raiseFault_state]
  | _ => simp [*, successorCode]

/-- A frame has a phase to send before its terminator exactly if the terminator is not its first slot: a slot other
than (0, 0) has one itself. -/
theorem exists_sendable_iff (m : Memory) :
    (∃ k ph, k ≤ 24 ∧ 0 < ((m.slot k).dur ph).toNat ∧ ∀ j ≤ k, m.slot j ≠ Slot.zero) ↔ m.slot 0 ≠ Slot.zero := by
  constructor
  · rintro ⟨k, _, _, _, hbefore⟩
    exact hbefore 0 (Nat.zero_le k)
  · intro hne
    have hbefore : ∀ j ≤ 0, m.slot j ≠ Slot.zero := fun j hj => Nat.le_zero.mp hj ▸ hne
    by_cases hhi : 0 < ((m.slot 0).dur .high).toNat
    · exact ⟨0, .high, Nat.zero_le 24, hhi, hbefore⟩
    · exact ⟨0, .low, Nat.zero_le 24, Slot.low_pos_of_high_zero hne hhi, hbefore⟩

theorem seek_zero_code (m : Memory) :
    (seek m 0 .high).code = if m.slot 0 = Slot.zero then encode .txEnd else encode .tx := by
  rw [seek_high, if_neg (by decide)]
  split_ifs <;> rfl

/-- Settles O25: the next code is `successorCode`'s, whose rows are the table's; ENCODE's and TX's conditions are put in
the terms of the frame and of the search. -/
theorem successorTable : Obligations.SuccessorTable := by
  unfold Obligations.SuccessorTable
  intro s hslot
  cases hr : s.input.rst with
  | true => exact ⟨_, step_of_reset hr, fun _ => rfl, nofun⟩
  | false =>
    obtain ⟨u, hu⟩ := exec_answers hslot
    have hc := opCase_of_exec hu
    have hnext {c : StateCode} (hs : s.state = c) : u.state = successorCode s (decode c) := hs ▸ opCase_state hc
    refine ⟨u.endTick, step_of_exec hr hu, nofun, fun _ => ?_⟩
    rw [endTick_state, endTick_frame]
    refine ⟨hnext, hnext, hnext, hnext, hnext, fun hs => ?encode, fun hs hf => ?txFault, fun hs hf => ?tx, hnext, hnext,
      hnext, hnext, fun hlo hhi => ?reserved⟩
    case encode =>
      have hframe : u.frame = encodedFrame s := ((opCase_frame hc).resolve_right fun h => h.1 hs).2
      have hcode : u.state = successorCode s .encode := by
        rw [hnext hs]
        rfl
      rw [hcode, hframe, successorCode_encode, seek_zero_code]
      exact ⟨fun h => if_neg ((exists_sendable_iff _).mp h),
        fun h => if_pos (not_not.mp (mt (exists_sendable_iff _).mpr h))⟩
    case txFault => exact (hnext hs).trans (if_pos hf)
    case tx =>
      have hlast {p : SeekResult} (hd : phaseTicks s ≤ s.txCnt.toNat + 1) (hp : nextPhase s = p) : u.state = p.code :=
        (hnext hs).trans ((successorCode_tx_last hf hd).trans (congrArg SeekResult.code hp))
      refine ⟨fun h => ?_, fun ⟨hd, k, hp⟩ => hlast hd hp⟩
      rcases Nat.lt_or_ge (s.txCnt.toNat + 1) (phaseTicks s) with hd | hd
      · exact (hnext hs).trans (successorCode_tx_within hf hd)
      · obtain ⟨k, ph, hp⟩ := h.resolve_left (Nat.not_lt.mpr hd)
        exact hlast hd hp
    case reserved =>
      have hcode := (isReserved_decode_iff s.state).mpr ⟨hlo, hhi⟩
      exact (hnext rfl).trans (successorCode_of_isReserved hcode s)

/-! ### The slot word and the report word (R63, R65) -/

/-- Settles O32: each word is a concatenation, so a field is read off once the fields below it are passed over. -/
theorem slotAndReportWords : Obligations.SlotAndReportWords := by
  unfold Obligations.SlotAndReportWords
  refine ⟨fun x => ⟨?hi, ?lo⟩, by decide, by decide, by decide, fun s => ⟨?voltage, ?red, ?green, ?blue⟩,
    fun s hv hr hg hb => ?tuple⟩
  case hi =>
    simp only [Slot.word, BitVec.extractLsb'_append_eq_of_le, Nat.reduceLeDiff, Nat.reduceSub,
      BitVec.extractLsb'_eq_self]
  case lo => simp only [Slot.word, BitVec.extractLsb'_append_eq_right]
  case voltage =>
    simp only [outputs, Outputs.reportWord, BitVec.extractLsb'_append_eq_of_le, Nat.reduceLeDiff, Nat.reduceSub,
      BitVec.extractLsb'_eq_self]
  case tuple =>
    simp only [outputs, Outputs.reportWord, hv, hr, hg, hb]
    decide
  all_goals
    simp only [outputs, Outputs.reportWord, BitVec.extractLsb'_append_eq_of_le, Nat.reduceLeDiff, Nat.reduceSub,
      BitVec.extractLsb'_append_eq_right]

/-! ### The input word (R69) -/

theorem inputWord_clockMhz (v : Inputs) : (inputWord v).extractLsb' 16 16 = v.clockMhz := by
  simp only [inputWord, BitVec.extractLsb'_append_eq_of_le, Nat.reduceLeDiff, Nat.reduceSub, BitVec.extractLsb'_eq_self]

theorem inputWord_adcData (v : Inputs) : (inputWord v).extractLsb' 4 12 = v.adcData := by
  simp only [inputWord, BitVec.extractLsb'_append_eq_of_le, Nat.reduceLeDiff, Nat.reduceSub,
    BitVec.extractLsb'_append_eq_right]

theorem inputWord_bits (v : Inputs) :
    (inputWord v).getLsbD 3 = v.txFault ∧ (inputWord v).getLsbD 2 = v.adcValid ∧
      (inputWord v).getLsbD 1 = v.initFail ∧ (inputWord v).getLsbD 0 = v.cfgValid := by
  simp only [inputWord, BitVec.getLsbD_append]
  simp

theorem vectorOf_inputWord (v : Inputs) : vectorOf v.rst (inputWord v) = v := by
  obtain ⟨hfault, hvalid, hinit, hcfg⟩ := inputWord_bits v
  rw [vectorOf, inputWord_clockMhz, inputWord_adcData, hfault, hvalid, hinit, hcfg]

/-- A bit is a field of width 1. -/
theorem ofBool_getLsbD {w : Nat} (x : BitVec w) (i : Nat) : BitVec.ofBool (x.getLsbD i) = x.extractLsb' i 1 := by
  ext j hj
  obtain rfl : j = 0 := by omega
  simp

/-- The fields of the input word leave no bit out, and join up to the word again. -/
theorem inputWord_vectorOf (r : Bool) (w : BitVec 32) : inputWord (vectorOf r w) = w := by
  simp (disch := rfl) only [inputWord, vectorOf, ofBool_getLsbD, BitVec.extractLsb'_append_extractLsb'_eq_extractLsb']
  exact BitVec.extractLsb'_eq_self

/-! ### The stimulus script (R70, R71) -/

/-- A field shifted into its place is read back there. -/
theorem extractLsb'_shiftLeft_setWidth {n w k : Nat} (x : BitVec n) (h : k + n ≤ w) :
    (x.setWidth w <<< k).extractLsb' k n = x := by
  ext i hi
  simp [BitVec.getLsbD_eq_getElem hi, show k + i < w by omega]

theorem vectorOf_cfg (f : Megahertz) :
    vectorOf false ((f.setWidth 32 <<< 16) ||| 0x1#32) = { cfgValid := true, clockMhz := f } := by
  have hclock : (f.setWidth 32 <<< 16).extractLsb' 16 16 = f := extractLsb'_shiftLeft_setWidth f (by decide)
  have hadc : (f.setWidth 32 <<< 16).extractLsb' 4 12 = 0#12 := by
    ext i hi
    simp
    omega
  simp [vectorOf, BitVec.extractLsb'_or, hclock, hadc]

theorem vectorOf_adc (v : AdcCode) :
    vectorOf false ((v.setWidth 32 <<< 4) ||| 0x4#32) = { adcValid := true, adcData := v } := by
  have hadc : (v.setWidth 32 <<< 4).extractLsb' 4 12 = v := extractLsb'_shiftLeft_setWidth v (by decide)
  have hclock : (v.setWidth 32 <<< 4).extractLsb' 16 16 = 0#16 := by
    ext i hi
    simp [BitVec.getLsbD_of_ge v (16 + i - 4) (by omega)]
  simp [vectorOf, BitVec.extractLsb'_or, hclock, hadc]

theorem scriptVectors_cons (l : StimLine) (ls : List StimLine) :
    scriptVectors (l :: ls) = l.vectors ++ scriptVectors ls := List.flatMap_cons

theorem scriptVectors_singleton (l : StimLine) : scriptVectors [l] = l.vectors := List.flatMap_singleton _ _

theorem inputAt_listed {s : State} {j : Nat} {v : Inputs} (h : s.stim[j]? = some v) : s.inputAt j = v := by
  rw [State.inputAt, h, Option.getD_some]

/-- Settles O33: word and vector by the word's fields, the mnemonics' vectors line by line, a script by the list its
vectors make. -/
theorem inputWordsOfTheStimulus : Obligations.InputWordsOfTheStimulus := by
  unfold Obligations.InputWordsOfTheStimulus
  refine ⟨fun v => ?fields, fun r w => ⟨inputWord_vectorOf r w, rfl⟩,
    ⟨rfl, fun f => ?cfg, rfl, fun v => ?adc, rfl, fun n => rfl⟩, scriptVectors_cons,
    fun s script j v h => inputAt_listed h,
    fun f => rfl, fun n => (scriptVectors_singleton (.nop n)).symm, fun v => (scriptVectors_singleton (.adc v)).symm⟩
  case fields =>
    obtain ⟨hfault, hvalid, hinit, hcfg⟩ := inputWord_bits v
    exact ⟨inputWord_clockMhz v, inputWord_adcData v, hfault, hvalid, hinit, hcfg, vectorOf_inputWord v⟩
  case cfg =>
    rw [vectorOf_cfg]
    rfl
  case adc =>
    rw [vectorOf_adc]
    rfl

end Sys2Proof.Machine
end

section
/-! PROOFS. The statements about spec/40_pulse_timing.md: what CALC computes (R80) and for how long it holds (R84), the
error of a phase (R81) and of a bit period (R82), and what degenerate clocks send (R83). -/

namespace Sys2Proof.Machine

/-! ### What CALC computes (R80) -/

/-- CALC's patterns are those of a frequency that it keeps. -/
theorem calculate_patterns {s t : State} (h : exec .calculate s = .next t) :
    HoldsPatterns t ∧ t.clkMhzR = s.clkMhzR ∧ t.fault = s.fault := by
  rw [exec, execCalc] at h
  obtain rfl := by simpa using h
  exact ⟨⟨toNat_ticks (by decide) _, toNat_ticks (by decide) _, toNat_ticks (by decide) _, toNat_ticks (by decide) _⟩,
    rfl, rfl⟩

/-- Settles O6: CALC answers in every state, its four results fit their registers, and it names the registers it
writes. -/
theorem calcComputesPatterns : Obligations.CalcComputesPatterns := by
  unfold Obligations.CalcComputesPatterns
  intro s
  obtain ⟨⟨hzh, hzl, hoh, hol⟩, _⟩ := calculate_patterns (rfl : exec .calculate s = .next _)
  exact ⟨_, rfl, hzh, hzl, hoh, hol, rfl, rfl, rfl, fun _ => rfl⟩

/-! ### The patterns hold until a reset (R84) -/

theorem NoReset.first {n : Nat} {s : State} (h : NoReset (n + 1) s) : s.input.rst = false := h 0 (Nat.succ_pos n)

theorem NoReset.rest {n : Nat} {s t : State} (h : NoReset (n + 1) s) (hs : step s = .next t) : NoReset n t := by
  intro j hj
  rw [inputAt_of_step hs]
  exact h (j + 1) (Nat.succ_lt_succ hj)

/-- The frequency and the patterns of `t` are those of `s`. -/
structure SamePatterns (s t : State) : Prop where
  clk : t.clkMhzR = s.clkMhzR
  zero_hi : t.zeroHi = s.zeroHi
  zero_lo : t.zeroLo = s.zeroLo
  one_hi : t.oneHi = s.oneHi
  one_lo : t.oneLo = s.oneLo
  valid : t.patternsValid = s.patternsValid

theorem SamePatterns.trans {s t u : State} (h : SamePatterns s t) (h' : SamePatterns t u) : SamePatterns s u :=
  ⟨h'.clk.trans h.clk, h'.zero_hi.trans h.zero_hi, h'.zero_lo.trans h.zero_lo, h'.one_hi.trans h.one_hi,
    h'.one_lo.trans h.one_lo, h'.valid.trans h.valid⟩

/-- The operations at which the frequency and the patterns are not to change any more. -/
def PastCalc (s : State) : Prop := s.state ≠ encode .rstWait ∧ s.state ≠ encode .calculate

theorem step_pastCalc {s t : State} (h : step s = .next t) (hr : s.input.rst = false) (hs : PastCalc s) :
    PastCalc t ∧ SamePatterns s t := by
  obtain ⟨u, hu, rfl⟩ := opCase_of_step h hr
  have hpast : PastCalc u.endTick :=
    ⟨fun hw => hs.1 (opCase_rstWait_entry hu hw), fun hc => hs.1 (opCase_calculate_entry hu hc)⟩
  have hclk : u.clkMhzR = s.clkMhzR := (opCase_clkMhzR hu).resolve_left fun hl => hs.1 hl.1
  rcases opCase_patterns hu with ⟨hc, _⟩ | ⟨_, hzh, hzl, hoh, hol, hv⟩
  · exact absurd hc hs.2
  · exact ⟨hpast, hclk, hzh, hzl, hoh, hol, hv⟩

theorem run_pastCalc {n : Nat} {s t : State} (h : run n s = .next t) (hr : NoReset n s) (hs : PastCalc s) :
    PastCalc t ∧ SamePatterns s t := by
  induction n generalizing s with
  | zero =>
    obtain rfl : s = t := by simpa using h
    exact ⟨hs, rfl, rfl, rfl, rfl, rfl, rfl⟩
  | succ n ih =>
    cases hstep : step s with
    | next u =>
      obtain ⟨hpast, hsame⟩ := step_pastCalc hstep hr.first hs
      rw [run_succ_of_step hstep] at h
      obtain ⟨hpast', hsame'⟩ := ih h (hr.rest hstep) hpast
      exact ⟨hpast', hsame.trans hsame'⟩
    | fault r => rw [run, hstep] at h; cases h
    | refused r => rw [run, hstep] at h; cases h

/-- Settles O29: R61 has RST_WAIT and CALC after RST_WAIT alone, and a run away from both meets no writer of the
frequency or of the patterns. -/
theorem calcRunsOncePerReset : Obligations.CalcRunsOncePerReset := by
  unfold Obligations.CalcRunsOncePerReset
  constructor
  · intro s t h hr hcode
    obtain ⟨u, hu, rfl⟩ := opCase_of_step h hr
    rw [endTick_state] at hcode
    exact hcode.elim (opCase_rstWait_entry hu) (opCase_calculate_entry hu)
  · intro n s t h0 h1 hr h
    obtain ⟨⟨ht0, ht1⟩, hclk, hzh, hzl, hoh, hol, hv⟩ := run_pastCalc h hr ⟨h0, h1⟩
    exact ⟨hclk, hzh, hzl, hoh, hol, hv, ht0, ht1⟩

/-! ### The error of a phase (R81) -/

/-- A truncated number of ticks, turned back into ns at `f` MHz, is short of `d` ns by less than one tick. -/
theorem truncated_phase_bounds {f : ℕ} (hf : 0 < f) (d : ℕ) :
    ((d * f / 1000 : ℕ) : ℚ) * 1000 / f ≤ d ∧ (d : ℚ) - 1000 / f < ((d * f / 1000 : ℕ) : ℚ) * 1000 / f := by
  have hfq : (0 : ℚ) < f := Nat.cast_pos.mpr hf
  have hle : ((d * f / 1000 : ℕ) : ℚ) * 1000 ≤ d * f := by
    exact_mod_cast Nat.div_mul_le_self (d * f) 1000
  have hlt : (d : ℚ) * f < ((d * f / 1000 : ℕ) : ℚ) * 1000 + 1000 := by
    exact_mod_cast Nat.lt_div_mul_add (a := d * f) (b := 1000) (by decide)
  constructor
  · exact (div_le_iff₀ hfq).mpr hle
  · rw [sub_lt_iff_lt_add, ← add_div, lt_div_iff₀ hfq]
    exact hlt

/-- Settles O34: each phase is the truncated quotient of its nominal duration. -/
theorem eachPhaseIsShortByLessThanOneTick : Obligations.EachPhaseIsShortByLessThanOneTick := by
  unfold Obligations.EachPhaseIsShortByLessThanOneTick
  intro s t h hf d n hmem
  obtain ⟨⟨hzh, hzl, hoh, hol⟩, hclk, -⟩ := calculate_patterns h
  have hn : n = d * s.clkMhzR.toNat / 1000 := by
    rw [hzh, hzl, hoh, hol, hclk] at hmem
    simp only [List.mem_cons, Prod.mk.injEq, List.not_mem_nil, or_false] at hmem
    rcases hmem with ⟨rfl, hn⟩ | ⟨rfl, hn⟩ | ⟨rfl, hn⟩ | ⟨rfl, hn⟩ <;> exact hn
  rw [hn]
  exact truncated_phase_bounds hf d

/-! ### The bit period (R82) -/

/-- `S(f)` of R82: the ticks of a bit period at `f` MHz. -/
def bitTicks (f : Nat) : Nat := 400 * f / 1000 + 850 * f / 1000

/-- Twenty MHz more are 25 ticks more, and nothing is cut off of them: the loss is that of `f mod 20`. -/
theorem bitTicks_mod_twenty (f : Nat) : bitTicks f = 25 * (f / 20) + bitTicks (f % 20) := by
  have h400 : 400 * f / 1000 = 400 * (f % 20) / 1000 + 8 * (f / 20) := by omega
  have h850 : 850 * f / 1000 = 850 * (f % 20) / 1000 + 17 * (f / 20) := by omega
  rw [bitTicks, bitTicks, h400, h850]
  omega

theorem bitTicks_loss_table : ∀ r : ℕ, r < 20 → some (5 * (r : ℤ) - 4 * (bitTicks r : ℤ)) =
    [(0 : ℤ), 5, 6, 3, 4, 1, 2, 7, 4, 5, 2, 3, 4, 1, 6, 3, 4, 5, 2, 3][r]? := by
  decide

theorem bitTicks_loss_bounds : ∀ r < 20, 4 * bitTicks r ≤ 5 * r ∧ 5 * r ≤ 4 * bitTicks r + 7 ∧
    (4 * bitTicks r = 5 * r ↔ r = 0) := by
  decide

theorem HoldsPatterns.zero_total {s : State} (h : HoldsPatterns s) :
    s.zeroHi.toNat + s.zeroLo.toNat = bitTicks s.clkMhzR.toNat := by
  rw [h.zero_hi, h.zero_lo, bitTicks]

theorem HoldsPatterns.one_total {s : State} (h : HoldsPatterns s) :
    s.oneHi.toNat + s.oneLo.toNat = bitTicks s.clkMhzR.toNat := by
  rw [h.one_hi, h.one_lo, bitTicks, Nat.add_comm]

/-- Settles O35: both totals are `S(f)`, whose loss has period 20 in `f`; below 20 it is the table's. -/
theorem bitPeriodLoss : Obligations.BitPeriodLoss := by
  unfold Obligations.BitPeriodLoss
  intro s t h
  obtain ⟨hp, hclk, -⟩ := calculate_patterns h
  have hzero := hp.zero_total
  have hone := hp.one_total
  rw [hclk] at hzero hone
  generalize s.clkMhzR.toNat = f at hzero hone ⊢
  have hr : f % 20 < 20 := Nat.mod_lt f (by decide)
  have hperiod := bitTicks_mod_twenty f
  obtain ⟨hle, hge, hexact⟩ := bitTicks_loss_bounds (f % 20) hr
  refine ⟨hzero.trans hone.symm, ?table, by omega, by omega, ?multiple⟩
  case table =>
    rw [← bitTicks_loss_table (f % 20) hr]
    congr 1
    omega
  case multiple =>
    rw [hzero, Nat.dvd_iff_mod_eq_zero, ← hexact]
    omega

/-! ### The frame of a clock (R83) -/

/-- A slot is the terminator exactly if neither of its phases has a tick. -/
theorem Slot.eq_zero_iff (x : Slot) : x = Slot.zero ↔ x.hi.toNat = 0 ∧ x.lo.toNat = 0 := by
  obtain ⟨hi, lo⟩ := x
  simp [Slot.zero, BitVec.toNat_eq]

/-- The phases of a data slot, as R80 and R90 give them: 850 and 400 ns for a 1, 400 and 850 ns for a 0. -/
theorem slotOperand_ticks {s : State} (h : HoldsPatterns s) {k : Nat} (hk : k < 24) :
    (slotOperand s k).hi.toNat = (if sel s k then 850 else 400) * s.clkMhzR.toNat / 1000 ∧
      (slotOperand s k).lo.toNat = (if sel s k then 400 else 850) * s.clkMhzR.toNat / 1000 := by
  rw [slotOperand, Config.terminator, if_pos hk]
  cases sel s k with
  | true => exact ⟨h.one_hi, h.one_lo⟩
  | false => exact ⟨h.zero_hi, h.zero_lo⟩

theorem slotOperand_eq_zero {s : State} (h : HoldsPatterns s) (hf : s.clkMhzR.toNat ≤ 1) (k : Nat) :
    slotOperand s k = Slot.zero := by
  by_cases hk : k < 24
  · obtain ⟨hhi, hlo⟩ := slotOperand_ticks h hk
    rw [Slot.eq_zero_iff, hhi, hlo]
    split_ifs <;> omega
  · exact if_neg hk

theorem slotOperand_ne_zero {s : State} (h : HoldsPatterns s) (hf : 2 ≤ s.clkMhzR.toNat) {k : Nat} (hk : k < 24) :
    slotOperand s k ≠ Slot.zero := by
  obtain ⟨hhi, hlo⟩ := slotOperand_ticks h hk
  rw [Ne, Slot.eq_zero_iff, hhi, hlo]
  split_ifs <;> omega

/-- From 2 MHz on the frame that ENCODE writes ends at its terminator. -/
theorem endSlot_encodedFrame {s : State} (hm : s.frame.wf = true) (h : HoldsPatterns s) (hf : 2 ≤ s.clkMhzR.toNat) :
    endSlot (encodedFrame s) = 24 := by
  refine endSlot_eq (by decide) (encodedFrame_terminator hm) fun k hk => ?_
  rw [encodedFrame_slot hm, if_pos (by omega)]
  exact slotOperand_ne_zero h hf hk

theorem waveform_encodedFrame {s : State} (hm : s.frame.wf = true) (h : HoldsPatterns s)
    (hf : 2 ≤ s.clkMhzR.toNat) :
    waveform (encodedFrame s) = (List.range 24).flatMap (fun k => slotWave (slotOperand s k)) := by
  rw [waveform, endSlot_encodedFrame hm h hf]
  refine List.flatMap_congr fun k hk => ?_
  have hk' := List.mem_range.mp hk
  rw [encodedFrame_slot hm, if_pos (by omega)]

/-- Up to 1 MHz the frame that ENCODE writes is empty. -/
theorem encodedFrame_slot_zero {s : State} (hm : s.frame.wf = true) (h : HoldsPatterns s)
    (hf : s.clkMhzR.toNat ≤ 1) (k : Nat) : (encodedFrame s).slot k = Slot.zero := by
  rw [encodedFrame_slot hm, slotOperand_eq_zero h hf, ite_self]

theorem waveform_eq_nil {m : Memory} (h : m.slot 0 = Slot.zero) : waveform m = [] := by
  rw [waveform, endSlot_eq (by decide) h (by simp)]
  rfl

/-- At 2 MHz a bit is one tick, the bit itself. -/
theorem slotWave_two {s : State} (h : HoldsPatterns s) (hf : s.clkMhzR.toNat = 2) {k : Nat} (hk : k < 24) :
    slotWave (slotOperand s k) = [sel s k] := by
  obtain ⟨hhi, hlo⟩ := slotOperand_ticks h hk
  rw [slotWave, hhi, hlo, hf]
  cases sel s k <;> rfl

/-- At 3 MHz a bit is three ticks, the bit in the middle. -/
theorem slotWave_three {s : State} (h : HoldsPatterns s) (hf : s.clkMhzR.toNat = 3) {k : Nat} (hk : k < 24) :
    slotWave (slotOperand s k) = [true, sel s k, false] := by
  obtain ⟨hhi, hlo⟩ := slotOperand_ticks h hk
  rw [slotWave, hhi, hlo, hf]
  cases sel s k <;> rfl

theorem slotOperand_pos {s : State} (h : HoldsPatterns s) (hf : 3 ≤ s.clkMhzR.toNat) {k : Nat} (hk : k < 24) :
    1 ≤ (slotOperand s k).hi.toNat ∧ 1 ≤ (slotOperand s k).lo.toNat := by
  obtain ⟨hhi, hlo⟩ := slotOperand_ticks h hk
  rw [hhi, hlo]
  split_ifs <;> omega

/-! ### No frequency raises a fault (R83) -/

theorem encode_frame_fault {s t : State} (h : exec .encode s = .next t) :
    t.frame = encodedFrame s ∧ t.fault = s.fault := by
  rw [exec, execEncode] at h
  generalize seek (encodedFrame s) 0 .high = p at h
  obtain rfl := by simpa using h
  simp

theorem tx_fault_kept {s t : State} (hf : s.input.txFault = false) (h : exec .tx s = .next t) : t.fault = s.fault := by
  rw [exec] at h
  rcases Nat.lt_or_ge 24 s.txSlot.toNat with hslot | hslot
  · rw [execTx_outside hf hslot] at h
    cases h
  rcases Nat.lt_or_ge (s.txCnt.toNat + 1) (phaseTicks s) with hd | hd
  · rw [execTx_within hf hslot hd] at h
    obtain rfl := by simpa using h
    rfl
  · rw [execTx_last hf hslot hd] at h
    obtain rfl := by simpa using h
    exact handOver_fault _ _

theorem txEnd_fault_kept {s t : State} (hf : s.input.txFault = false) (h : exec .txEnd s = .next t) :
    t.fault = s.fault := by
  rw [exec, execTxEnd, if_neg (by simp [hf])] at h
  obtain rfl := by simpa using h
  rfl

/-- Settles O36: the patterns by R80's quotients at the frequency, the waveforms slot by slot, the faults operation by
operation. -/
theorem degenerateClocks : Obligations.DegenerateClocks := by
  unfold Obligations.DegenerateClocks
  refine ⟨fun s t h => ?patterns, fun s t hm hp h => ?waveforms, fun s hi hc => ?latch, fun s t h => ?calculateEncode,
    fun s t hf h => h.elim (tx_fault_kept hf) (txEnd_fault_kept hf)⟩
  case patterns =>
    obtain ⟨⟨hzh, hzl, hoh, hol⟩, hclk, -⟩ := calculate_patterns h
    rw [hclk] at hzh hzl hoh hol
    refine ⟨fun hf => ?_, fun hf => ?_, fun hf => ?_, fun hf => by omega⟩
    · bv_omega
    · rw [hf] at hzh hzl hoh hol
      bv_omega
    · rw [hf] at hzh hzl hoh hol
      bv_omega
  case waveforms =>
    rw [(encode_frame_fault h).1]
    refine ⟨fun hf => ?one, fun hf => ?two, fun hf => ?three, fun hf => ⟨?ends, fun k hk => ?ticks⟩⟩
    case one =>
      have hzero := encodedFrame_slot_zero hm hp hf
      exact ⟨fun k _ => hzero k, waveform_eq_nil (hzero 0)⟩
    case two =>
      rw [waveform_encodedFrame hm hp (by omega), List.map_eq_flatMap]
      exact List.flatMap_congr fun k hk => slotWave_two hp hf (List.mem_range.mp hk)
    case three =>
      rw [waveform_encodedFrame hm hp (by omega)]
      exact List.flatMap_congr fun k hk => slotWave_three hp hf (List.mem_range.mp hk)
    case ends => exact endSlot_encodedFrame hm hp (by omega)
    case ticks =>
      rw [encodedFrame_slot hm, if_pos (by omega)]
      exact slotOperand_pos hp hf hk
  case latch =>
    rw [exec, execRstWait, if_neg (by simp [hi]), if_pos hc]
    exact ⟨_, rfl, rfl, rfl, rfl⟩
  case calculateEncode =>
    rcases h with h | h
    · exact (calculate_patterns h).2.2
    · exact (encode_frame_fault h).2

end Sys2Proof.Machine
end

section
/-! PROOFS. The statements about spec/41_frame_encoder.md: what ENCODE writes (R90), and how it hands over to TX or
TX_END (R91). -/

namespace Sys2Proof.Machine

/-- ENCODE answers in every state: the new frame, and the hand-over of the search over it (R90, R91). -/
theorem exec_encode (s : State) : exec .encode s =
    .next (handOver (seek (encodedFrame s) 0 .high) { s with frame := encodedFrame s, txCnt := 0 }) := rfl

/-! ### The frame (R64, R90) -/

/-- Bit `b` of a channel's byte stands in slot `7 - b` of the channel's eight: most significant bit first (R64). -/
theorem slotOperand_channel (s : State) {c b : Nat} (hc : c < 3) (hb : b < 8) :
    slotOperand s (8 * c + (7 - b)) = if (channel s c).getLsbD b then onePattern s else zeroPattern s := by
  have hdata : 8 * c + (7 - b) < 24 := by omega
  have hchannel : (8 * c + (7 - b)) / 8 = c := by omega
  have hbit : 7 - (8 * c + (7 - b)) % 8 = b := by omega
  rw [slotOperand, Config.terminator, if_pos hdata, sel, hchannel, hbit]

/-- What reading the new frame finds in slot `k`, the place of bit `b` of channel `c`. -/
theorem memRead_encodedFrame_channel {s : State} (hm : s.frame.wf = true) {k c b : Nat} (hc : c < 3) (hb : b < 8)
    (hk : k = 8 * c + (7 - b)) :
    memRead (encodedFrame s) k = some (if (channel s c).getLsbD b then onePattern s else zeroPattern s) := by
  have hslot : k < 25 := by omega
  rw [memRead_of_lt hslot, encodedFrame_slot hm, if_pos hslot, hk, slotOperand_channel s hc hb]

theorem memRead_encodedFrame_terminator {s : State} (hm : s.frame.wf = true) :
    memRead (encodedFrame s) 24 = some Slot.zero := by
  rw [memRead_of_lt (by decide), encodedFrame_terminator hm]

/-- ENCODE writes the frame buffer, the transmit position and `state` alone. -/
theorem encode_writes {s t : State} (h : exec .encode s = .next t) :
    t = { s with frame := t.frame, txSlot := t.txSlot, txPhase := t.txPhase, txCnt := t.txCnt, state := t.state } := by
  rw [exec_encode] at h
  generalize seek (encodedFrame s) 0 .high = p at h
  generalize encodedFrame s = m at h
  obtain rfl := Host.Outcome.next.inj h
  cases p <;> rfl

/-- Settles O11: green, red and blue are the channels 0, 1 and 2, eight slots each, and slot 24 comes after them. -/
theorem encodeWritesTheFrame : Obligations.EncodeWritesTheFrame := by
  unfold Obligations.EncodeWritesTheFrame
  intro s hm
  obtain ⟨t, ht⟩ : ∃ t, exec .encode s = .next t := ⟨_, exec_encode s⟩
  have hframe := (encode_frame_fault ht).1
  refine ⟨t, ht, fun b hb => ?bits, ?terminator, ?canonical, encode_writes ht⟩
  case bits =>
    rw [hframe]
    exact ⟨memRead_encodedFrame_channel hm (c := 0) (by decide) hb (by omega),
      memRead_encodedFrame_channel hm (c := 1) (by decide) hb (by omega),
      memRead_encodedFrame_channel hm (c := 2) (by decide) hb (by omega)⟩
  case terminator =>
    rw [hframe]
    exact memRead_encodedFrame_terminator hm
  case canonical =>
    rw [hframe]
    exact encodedFrame_wf hm

/-! ### The hand-over (R91) -/

/-- `tx_slot` holds the slot that a search answers. -/
theorem toNat_handOver_seek_txSlot (m : Memory) (k : Nat) (ph : Phase) (s : State) :
    (handOver (seek m k ph) s).txSlot.toNat = (seek m k ph).slot := by
  rw [handOver_txSlot, seek, toNat_slotIndex (seekLoop_slot_le m 51 k ph)]

/-- A search that ended at `e`: the position is `e`, HIGH, and TX_END is next. -/
theorem handOver_seek_ended {m : Memory} {k e : Nat} {ph : Phase} (h : seek m k ph = .ended e) (s : State) :
    (handOver (seek m k ph) s).txSlot.toNat = e ∧ (handOver (seek m k ph) s).txPhase = .high ∧
      (handOver (seek m k ph) s).state = encode .txEnd := by
  have hslot := toNat_handOver_seek_txSlot m k ph s
  rw [h] at hslot ⊢
  exact ⟨hslot, rfl, rfl⟩

/-- A search that found a position: the position is taken, and TX is next. -/
theorem handOver_seek_position {m : Memory} {k j : Nat} {ph q : Phase} (h : seek m k ph = .position j q) (s : State) :
    (handOver (seek m k ph) s).txSlot.toNat = j ∧ (handOver (seek m k ph) s).txPhase = q ∧
      (handOver (seek m k ph) s).state = encode .tx := by
  have hslot := toNat_handOver_seek_txSlot m k ph s
  rw [h] at hslot ⊢
  exact ⟨hslot, rfl, rfl⟩

/-- ENCODE's hand-over is that of the search over the frame it leaves. -/
theorem encode_handOver {s t : State} (h : exec .encode s = .next t) :
    t = handOver (seek t.frame 0 .high) { s with frame := t.frame, txCnt := 0 } := by
  rw [(encode_frame_fault h).1]
  rw [exec_encode] at h
  exact (Host.Outcome.next.inj h).symm

theorem encode_txCnt {s t : State} (h : exec .encode s = .next t) : t.txCnt = 0 := by
  rw [encode_handOver h, handOver_txCnt]

theorem encode_ended {s t : State} (h : exec .encode s = .next t) {k : Nat} (hk : seek t.frame 0 .high = .ended k) :
    t.txSlot.toNat = k ∧ t.txPhase = .high ∧ t.state = encode .txEnd := by
  have hover := handOver_seek_ended hk { s with frame := t.frame, txCnt := 0 }
  rwa [← encode_handOver h] at hover

theorem encode_position {s t : State} (h : exec .encode s = .next t) {k : Nat} {ph : Phase}
    (hk : seek t.frame 0 .high = .position k ph) : t.txSlot.toNat = k ∧ t.txPhase = ph ∧ t.state = encode .tx := by
  have hover := handOver_seek_position hk { s with frame := t.frame, txCnt := 0 }
  rwa [← encode_handOver h] at hover

theorem seek_zero_ended {m : Memory} (h : m.slot 0 = Slot.zero) : seek m 0 .high = .ended 0 := by
  rw [seek_high, if_neg (by decide), if_pos h]

/-- A first slot other than (0, 0) has a phase to send, so the search stops in it. -/
theorem seek_zero_position {m : Memory} (h : m.slot 0 ≠ Slot.zero) : ∃ ph, seek m 0 .high = .position 0 ph := by
  rw [seek_high, if_neg (by decide), if_neg h]
  split_ifs
  · exact ⟨.high, rfl⟩
  · exact ⟨.low, rfl⟩

/-- Settles O12: the search is over the frame written, and what it finds with CALC's patterns is decided by slot 0,
which is (0, 0) up to 1 MHz and has a phase to send from 2 MHz on. -/
theorem encodeHandsOver : Obligations.EncodeHandsOver := by
  unfold Obligations.EncodeHandsOver
  refine ⟨fun s => ?anyFrame, fun s t hm hp ht => ⟨fun hf => ?sends, fun hf => ?empty⟩⟩
  case anyFrame =>
    obtain ⟨t, ht⟩ : ∃ t, exec .encode s = .next t := ⟨_, exec_encode s⟩
    exact ⟨t, ht, encode_txCnt ht, fun k hk => encode_ended ht hk, fun k ph hk => encode_position ht hk⟩
  case sends =>
    have hslot : t.frame.slot 0 ≠ Slot.zero := by
      rw [(encode_frame_fault ht).1, encodedFrame_slot hm, if_pos (by decide)]
      exact slotOperand_ne_zero hp hf (by decide)
    obtain ⟨ph, hseek⟩ := seek_zero_position hslot
    obtain ⟨htxSlot, -, hstate⟩ := encode_position ht hseek
    exact ⟨BitVec.eq_of_toNat_eq htxSlot, hstate⟩
  case empty =>
    have hslot : t.frame.slot 0 = Slot.zero := by
      rw [(encode_frame_fault ht).1, encodedFrame_slot_zero hm hp hf]
    have hseek := seek_zero_ended hslot
    obtain ⟨htxSlot, -, hstate⟩ := encode_ended ht hseek
    exact ⟨hseek, BitVec.eq_of_toNat_eq htxSlot, hstate, waveform_eq_nil hslot⟩

end Sys2Proof.Machine
end

section
/-! PROOFS. The statements about spec/42_sense_map.md: what SAMPLE does (R100) and for how long it waits (R101), the
voltage of CONVERT (R103, R104) and the colour of MAP (R106 to R110). -/

namespace Sys2Proof.Machine

/-! ### SAMPLE (R100) -/

theorem exec_sample_valid {s : State} (h : s.input.adcValid = true) :
    exec .sample s = .next (goto .convert { s with raw := s.input.adcData }) := by
  rw [exec, execSample, if_pos h]

theorem exec_sample_notReady {s : State} (h : s.input.adcValid = false) :
    exec .sample s = .next (goto .sample s) := by
  rw [exec, execSample, if_neg (by simp [h])]

theorem outputs_adcReq (s : State) : (outputs s).adcReq = (s.state == encode .sample) := rfl

/-- Settles O7: SAMPLE has one branch for each value of `adc_valid`. -/
theorem sampleLatchesOrRetries : Obligations.SampleLatchesOrRetries := by
  unfold Obligations.SampleLatchesOrRetries
  refine fun s => ⟨exec_sample_valid, exec_sample_notReady, fun hs => ?_⟩
  rw [outputs_adcReq, hs]
  rfl

/-! ### The wait for the ADC (R101) -/

theorem SameRegisters.trans {s t u : State} (h : SameRegisters s t) (h' : SameRegisters t u) : SameRegisters s u := by
  rw [SameRegisters] at h h' ⊢
  rw [h] at h'
  exact h'

theorem goto_self {i : Instr} {s : State} (h : s.state = encode i) : goto i s = s := by
  rw [goto, ← h]

theorem step_sample_valid {s : State} (hs : s.state = encode .sample) (hr : s.input.rst = false)
    (ha : s.input.adcValid = true) : step s = .next (goto .convert { s with raw := s.input.adcData }).endTick :=
  step_of_exec hr (by rw [hs, decode_encode_sample]; exact exec_sample_valid ha)

theorem step_sample_notReady {s : State} (hs : s.state = encode .sample) (hr : s.input.rst = false)
    (ha : s.input.adcValid = false) : step s = .next s.endTick :=
  step_of_exec hr (by rw [hs, decode_encode_sample, exec_sample_notReady ha, goto_self hs])

/-- A wait of any length changes no register. -/
theorem run_sample_notReady {n : Nat} {s : State} (hs : s.state = encode .sample) (hr : NoReset n s)
    (ha : ∀ j < n, (s.inputAt j).adcValid = false) : ∃ t, run n s = .next t ∧ SameRegisters s t := by
  induction n generalizing s with
  | zero => exact ⟨s, rfl, rfl⟩
  | succ n ih =>
    have hstep := step_sample_notReady hs hr.first (ha 0 (Nat.succ_pos n))
    obtain ⟨t, ht, hsame⟩ := ih (s := s.endTick) hs (hr.rest hstep) fun j hj => by
      rw [endTick_inputAt]
      exact ha (j + 1) (Nat.succ_lt_succ hj)
    exact ⟨t, (run_succ_of_step hstep n).trans ht, (sameRegisters_endTick s).trans hsame⟩

/-- The tick in which the ADC answers, after a wait of `n` ticks, latches the code it gives. -/
theorem run_sample_valid {n : Nat} {s : State} (hs : s.state = encode .sample) (hr : NoReset (n + 1) s)
    (ha : AdcReadyAfter n s) :
    ∃ t, run (n + 1) s = .next t ∧
      SameRegisters { s with raw := (s.inputAt n).adcData, state := encode .convert } t := by
  obtain ⟨hwait, hready⟩ := ha
  obtain ⟨t, ht, hsame⟩ := run_sample_notReady hs (fun j hj => hr j (Nat.lt_succ_of_lt hj)) hwait
  have hinput : t.input = s.inputAt n := inputAt_of_run ht 0
  have hstate : t.state = encode .sample := by rw [hsame]; exact hs
  have hrst : t.input.rst = false := by rw [hinput]; exact hr n (Nat.lt_succ_self n)
  refine ⟨_, run_then_step ht (step_sample_valid hstate hrst (by rw [hinput]; exact hready)), ?_⟩
  rw [hinput, hsame]
  rfl

/-- Settles O45: the wait changes no register, so the tick after it is still SAMPLE's. -/
theorem sampleWaitsForTheAdc : Obligations.SampleWaitsForTheAdc := by
  unfold Obligations.SampleWaitsForTheAdc
  constructor
  · intro n s hs hr ha
    obtain ⟨t, ht, hsame⟩ := run_sample_notReady hs hr ha
    refine ⟨t, ht, hsame, ?_⟩
    rw [hsame, outputs_adcReq, hs]
    rfl
  · intro n s hs hr ha
    obtain ⟨t, ht, hsame⟩ := run_sample_valid hs hr ha
    refine ⟨t, ht, hsame, ?_⟩
    rw [hsame]
    rfl

/-! ### CONVERT (R103, R104) -/

theorem convert_voltage {s t : State} (h : exec .convert s = .next t) :
    t.voltage.toNat = s.raw.toNat * 3300 / 4095 := by
  rw [exec, execConvert] at h
  obtain rfl := Host.Outcome.next.inj h
  exact toNat_millivolts s.raw

/-- The truncated product is the floor of the source's real quotient. -/
theorem floor_millivolts (raw : ℕ) : ((raw * 3300 / 4095 : ℕ) : ℤ) = ⌊(raw : ℚ) / 4095 * 3300⌋ := by
  have hquot : (raw : ℚ) / 4095 * 3300 = (raw * 3300 : ℕ) / (4095 : ℕ) := by
    push_cast
    ring
  rw [hquot, Rat.floor_natCast_div_natCast]
  rfl

/-- The least code that gives `mv` millivolts, `mv * 4095 / 3300` rounded up: codes are closer than millivolts. -/
def codeOf (mv : Nat) : Nat := (mv * 4095 + 3299) / 3300

theorem codeOf_lt {mv : Nat} (h : mv ≤ 3300) : codeOf mv < 4096 := by
  rw [codeOf]
  omega

theorem millivolts_codeOf (mv : Nat) : codeOf mv * 3300 / 4095 = mv := by
  rw [codeOf]
  omega

/-- Settles O8: the exact quotient fits the register, and each voltage has the code that `codeOf` computes. -/
theorem convertTruncatesTheExactVoltage : Obligations.ConvertTruncatesTheExactVoltage := by
  unfold Obligations.ConvertTruncatesTheExactVoltage
  refine ⟨fun s => ?result, fun mv hmv => ?onto⟩
  case result =>
    have hv := convert_voltage (rfl : exec .convert s = .next _)
    exact ⟨_, rfl, hv, by rw [hv, floor_millivolts], rfl, rfl, fun _ => rfl⟩
  case onto =>
    refine ⟨{ State.reset with raw := BitVec.ofNat 12 (codeOf mv) }, _, rfl, ?_⟩
    rw [convert_voltage rfl, BitVec.toNat_ofNat, Nat.mod_eq_of_lt (codeOf_lt hmv), millivolts_codeOf]

/-- Settles O37: a truncated quotient is monotone, and each threshold is one evaluation of it. -/
theorem voltageIsMonotoneWithItsThresholds : Obligations.VoltageIsMonotoneWithItsThresholds := by
  unfold Obligations.VoltageIsMonotoneWithItsThresholds
  constructor
  · intro s s' t t' h h' hle
    rw [convert_voltage h, convert_voltage h']
    exact Nat.div_le_div_right (Nat.mul_le_mul_right 3300 hle)
  · intro s t h
    rw [convert_voltage h]
    refine ⟨?_, ?_, ?_, ?_⟩ <;> omega

/-! ### The colour of MAP (R106) -/

theorem channelOf_eq (x : Nat) : channelOf x = (510 * x + 2300) / 4600 := rfl

theorem clampedMv_eq (mv : Nat) : clampedMv mv = min (max mv 500) 2800 := rfl

theorem redOf_eq (mv : Nat) : redOf mv = channelOf (2800 - clampedMv mv) := rfl

theorem blueOf_eq (mv : Nat) : blueOf mv = channelOf (clampedMv mv - 500) := rfl

theorem map_colour {s t : State} (h : exec .map s = .next t) :
    t.red.toNat = redOf s.voltage.toNat ∧ t.green = 0 ∧ t.blue.toNat = blueOf s.voltage.toNat := by
  rw [exec, execMap] at h
  obtain rfl := Host.Outcome.next.inj h
  exact ⟨toNat_red _, rfl, toNat_blue _⟩

/-- The colour of a voltage, once the numbers are known. -/
theorem map_colour_of_voltage {s t : State} (h : exec .map s = .next t) {mv : Nat} (hmv : s.voltage.toNat = mv)
    {r b : Channel} (hc : redOf mv = r.toNat ∧ blueOf mv = b.toNat) : t.red = r ∧ t.green = 0 ∧ t.blue = b := by
  obtain ⟨hr, hg, hb⟩ := map_colour h
  rw [hmv] at hr hb
  exact ⟨BitVec.eq_of_toNat_eq (hr.trans hc.1), hg, BitVec.eq_of_toNat_eq (hb.trans hc.2)⟩

/-- Settles O9: both channels fit their registers, and MAP names the registers it writes. -/
theorem mapComputesColour : Obligations.MapComputesColour := by
  unfold Obligations.MapComputesColour
  intro s
  obtain ⟨hr, hg, hb⟩ := map_colour (rfl : exec .map s = .next _)
  exact ⟨_, rfl, hr, hb, hg, rfl, rfl, fun _ => rfl⟩

/-! ### The rounded interpolation (R107) -/

/-- Adding half the divisor before the division rounds half up. -/
theorem channelOf_eq_floor (x : ℕ) : (channelOf x : ℤ) = ⌊255 * ((x : ℚ) / 2300) + 1 / 2⌋ := by
  have hquot : 255 * ((x : ℚ) / 2300) + 1 / 2 = (510 * x + 2300 : ℕ) / (4600 : ℕ) := by
    push_cast
    ring
  rw [hquot, Rat.floor_natCast_div_natCast, channelOf_eq]
  rfl

/-- Clamping the voltage first gives the same fraction as clamping the fraction. -/
theorem clamped_fraction (mv : ℕ) :
    min (max (((mv : ℚ) - 500) / (2800 - 500)) 0) 1 = ((clampedMv mv - 500 : ℕ) : ℚ) / 2300 := by
  obtain ⟨hlo, -⟩ := clampedMv_bounds mv
  have hscale : Monotone fun v : ℚ => (v - 500) / 2300 := fun v w h => by
    dsimp only
    gcongr
  rw [Nat.cast_sub hlo, clampedMv_eq]
  push_cast
  rw [hscale.map_min, hscale.map_max]
  norm_num

/-- Settles O10: the clamped fraction is a number of millivolts over 2300, and so is its complement. -/
theorem mapIsTheRoundedInterpolation : Obligations.MapIsTheRoundedInterpolation := by
  unfold Obligations.MapIsTheRoundedInterpolation
  intro s t h
  obtain ⟨hr, -, hb⟩ := map_colour h
  obtain ⟨hlo, hhi⟩ := clampedMv_bounds s.voltage.toNat
  have hcompl : 1 - ((clampedMv s.voltage.toNat - 500 : ℕ) : ℚ) / 2300 =
      ((2800 - clampedMv s.voltage.toNat : ℕ) : ℚ) / 2300 := by
    rw [Nat.cast_sub hlo, Nat.cast_sub hhi]
    ring
  intro x
  rw [show x = _ from clamped_fraction s.voltage.toNat, hcompl, hr, hb, redOf_eq, blueOf_eq]
  exact ⟨channelOf_eq_floor _, channelOf_eq_floor _⟩

/-! ### The ties (R108) -/

/-- The five voltages in millivolts whose interpolation has the fractional part 1/2. -/
def tieVoltages : List Nat := [730, 1190, 1650, 2110, 2570]

/-- The interpolation is half-way between two values at the odd multiples of 230 mV above 500 mV. -/
theorem tie_iff (x : Nat) : 510 * x % 4600 = 2300 ↔ x % 460 = 230 := by
  omega

theorem mem_tieVoltages {mv : Nat} (h : mv ≤ 2800) : mv ∈ tieVoltages ↔ (mv - 500) % 460 = 230 := by
  simp only [tieVoltages, List.mem_cons, List.not_mem_nil, or_false]
  omega

/-- No tie lies outside the calibration range, so the clamp neither adds nor removes one. -/
theorem clampedMv_mem_tieVoltages (mv : Nat) : clampedMv mv ∈ tieVoltages ↔ mv ∈ tieVoltages := by
  simp only [tieVoltages, clampedMv_eq, List.mem_cons, List.not_mem_nil, or_false]
  omega

/-- Two numbers with the sum 256 * 4600 have quotients with the sum 256, less 1 where they have remainders. -/
theorem div_add_complement_div {n : Nat} (h : n ≤ 256 * 4600) :
    (256 * 4600 - n) / 4600 + n / 4600 = if n % 4600 = 0 then 256 else 255 := by
  split <;> omega

/-- The two quotients before rounding sum to 255: at a tie both round up, elsewhere one rounds up and one down. -/
theorem channelOf_add {x : Nat} (h : x ≤ 2300) :
    channelOf (2300 - x) + channelOf x = if x % 460 = 230 then 256 else 255 := by
  have hcompl : 510 * (2300 - x) + 2300 = 256 * 4600 - (510 * x + 2300) := by omega
  have htie : x % 460 = 230 ↔ (510 * x + 2300) % 4600 = 0 := (tie_iff x).symm.trans (by omega)
  simp only [channelOf_eq, hcompl, htie]
  exact div_add_complement_div (by omega)

theorem redOf_add_blueOf (mv : Nat) : redOf mv + blueOf mv = if mv ∈ tieVoltages then 256 else 255 := by
  obtain ⟨hlo, hhi⟩ := clampedMv_bounds mv
  simp only [← clampedMv_mem_tieVoltages mv, mem_tieVoltages hhi]
  rw [redOf_eq, blueOf_eq, show 2800 - clampedMv mv = 2300 - (clampedMv mv - 500) by omega]
  exact channelOf_add (by omega)

/-- Settles O38: the ties are the odd multiples of 230 mV above 500 mV, and only there do both channels round up. -/
theorem colourTies : Obligations.ColourTies := by
  unfold Obligations.ColourTies
  refine ⟨fun vc _ hhi => (tie_iff _).trans (mem_tieVoltages hhi).symm, fun s t h => ?_⟩
  obtain ⟨hr, -, hb⟩ := map_colour h
  have hsum := redOf_add_blueOf s.voltage.toNat
  rw [← hr, ← hb] at hsum
  exact ⟨fun hmv => map_colour_of_voltage h hmv (by decide), fun hmv => map_colour_of_voltage h hmv (by decide),
    fun hmv => map_colour_of_voltage h hmv (by decide), fun hmv => map_colour_of_voltage h hmv (by decide),
    fun hmv => map_colour_of_voltage h hmv (by decide), fun htie => hsum.trans (if_pos htie),
    fun htie => hsum.trans (if_neg htie)⟩

/-! ### The boundaries (R109) -/

/-- Rounding extends the pure red band from 500 mV to 504 mV. -/
theorem pureRed_of_le {mv : Nat} (h : mv ≤ 504) : redOf mv = 255 ∧ blueOf mv = 0 := by
  rw [redOf_eq, blueOf_eq, channelOf_eq, channelOf_eq, clampedMv_eq]
  omega

/-- Rounding extends the pure blue band from 2800 mV down to 2796 mV. -/
theorem pureBlue_of_ge {mv : Nat} (h : 2796 ≤ mv) : redOf mv = 0 ∧ blueOf mv = 255 := by
  rw [redOf_eq, blueOf_eq, channelOf_eq, channelOf_eq, clampedMv_eq]
  omega

/-- Settles O39: the two bands in millivolts, and the codes whose voltages lie in them. -/
theorem colourBoundaries : Obligations.ColourBoundaries := by
  unfold Obligations.ColourBoundaries
  refine ⟨fun s t h => ⟨fun hmv => ?_, fun hmv => ?_, fun hmv => ?_, fun hmv => ?_⟩, fun s t u h h' => ?_⟩
  · exact map_colour_of_voltage h rfl (pureRed_of_le hmv)
  · exact map_colour_of_voltage h hmv (by decide)
  · exact map_colour_of_voltage h hmv (by decide)
  · exact map_colour_of_voltage h rfl (pureBlue_of_ge hmv)
  · have hv := convert_voltage h
    exact ⟨fun hraw => map_colour_of_voltage h' rfl (pureRed_of_le (by omega)),
      fun hraw => map_colour_of_voltage h' rfl (pureBlue_of_ge (by omega))⟩

/-! ### Monotone and pure (R110) -/

theorem channelOf_monotone : Monotone channelOf := fun _ _ h =>
  Nat.div_le_div_right (Nat.add_le_add_right (Nat.mul_le_mul_left 510 h) 2300)

theorem clampedMv_monotone : Monotone clampedMv := fun _ _ h =>
  min_le_min_right 2800 (max_le_max_right 500 h)

theorem blueOf_monotone : Monotone blueOf := fun _ _ h =>
  channelOf_monotone (Nat.sub_le_sub_right (clampedMv_monotone h) 500)

theorem redOf_antitone : Antitone redOf := fun _ _ h =>
  channelOf_monotone (Nat.sub_le_sub_left (clampedMv_monotone h) 2800)

/-- Settles O40: each channel is a monotone function of the voltage, and of nothing else. -/
theorem colourIsMonotoneAndPure : Obligations.ColourIsMonotoneAndPure := by
  unfold Obligations.ColourIsMonotoneAndPure
  intro s s' t t' h h'
  obtain ⟨hr, hg, hb⟩ := map_colour h
  obtain ⟨hr', hg', hb'⟩ := map_colour h'
  constructor
  · intro hlt
    rw [hr, hr', hb, hb']
    exact ⟨redOf_antitone hlt.le, blueOf_monotone hlt.le⟩
  · intro hv
    rw [hg']
    exact map_colour_of_voltage h (congrArg BitVec.toNat hv) ⟨hr'.symm, hb'.symm⟩

end Sys2Proof.Machine
end

section
/-! PROOFS. The statements about spec/43_transmit.md: what the search of R123 answers, one tick of TX (R124) and of
TX_END (R126), the transmit position (R122), the waveform a transmission drives (R125) and its length (R128), and what
follows a transmit fault (R130). -/

namespace Sys2Proof.Machine

/-! ### The search (R123) -/

/-- The place of a position in the search's order: (0, HIGH), (0, LOW), (1, HIGH), … -/
def phaseIndex (k : Nat) (p : Phase) : Nat := 2 * k + p.bit.toNat

theorem phaseIndex_high (k : Nat) : phaseIndex k .high = 2 * k := rfl

theorem phaseIndex_low (k : Nat) : phaseIndex k .low = 2 * k + 1 := rfl

theorem phaseIndex_bounds (k : Nat) (p : Phase) : 2 * k ≤ phaseIndex k p ∧ phaseIndex k p ≤ 2 * k + 1 := by
  cases p <;> simp [phaseIndex_high, phaseIndex_low]

theorem phaseIndex_after (k : Nat) (p : Phase) :
    phaseIndex (after k p).1 (after k p).2 = phaseIndex k p + 1 := by
  cases p <;> rfl

theorem phaseIndex_injective {j k : Nat} {q p : Phase} (h : phaseIndex j q = phaseIndex k p) : j = k ∧ q = p := by
  have hj := phaseIndex_bounds j q
  have hk := phaseIndex_bounds k p
  obtain rfl : j = k := by omega
  cases q <;> cases p <;> simp [phaseIndex_high, phaseIndex_low] at h ⊢

/-- `Skipped m i n`: each position from place `i` to before place `n` is a phase of zero duration in a data slot. -/
def Skipped (m : Memory) (i n : Nat) : Prop :=
  ∀ j q, i ≤ phaseIndex j q → phaseIndex j q < n → m.slot j ≠ Slot.zero ∧ ((m.slot j).dur q).toNat = 0

theorem skipped_of_le (m : Memory) {i n : Nat} (h : n ≤ i) : Skipped m i n :=
  fun _ _ hi hn => absurd (hi.trans_lt hn) (Nat.not_lt.mpr h)

theorem Skipped.before {m : Memory} {k n : Nat} {p : Phase} (h : Skipped m (phaseIndex k p + 1) n)
    (hk : m.slot k ≠ Slot.zero) (hd : ((m.slot k).dur p).toNat = 0) : Skipped m (phaseIndex k p) n := by
  intro j q hi hn
  rcases Nat.eq_or_lt_of_le hi with heq | hlt
  · obtain ⟨rfl, rfl⟩ := phaseIndex_injective heq
    exact ⟨hk, hd⟩
  · exact h j q hlt hn

/-- `FirstFrom m i p`: the search result `p` is right for a search from place `i` on. -/
def FirstFrom (m : Memory) (i : Nat) : SeekResult → Prop
  | .position k p =>
    k < 25 ∧ i ≤ phaseIndex k p ∧ m.slot k ≠ Slot.zero ∧ 0 < ((m.slot k).dur p).toNat ∧ Skipped m i (phaseIndex k p)
  | .ended e =>
    e ≤ 24 ∧ (i ≤ phaseIndex e .low ∧ m.slot e = Slot.zero ∧ Skipped m i (phaseIndex e .high) ∨
      e = 24 ∧ Skipped m i (phaseIndex 25 .high))

/-- A phase to skip may be put in front of a search. -/
theorem FirstFrom.before {m : Memory} {k : Nat} {p : Phase} {r : SeekResult}
    (h : FirstFrom m (phaseIndex k p + 1) r) (hk : m.slot k ≠ Slot.zero) (hd : ((m.slot k).dur p).toNat = 0) :
    FirstFrom m (phaseIndex k p) r := by
  cases r with
  | position j q =>
    obtain ⟨hj, hi, hne, hpos, hskip⟩ := h
    exact ⟨hj, Nat.le_of_succ_le hi, hne, hpos, hskip.before hk hd⟩
  | ended e =>
    obtain ⟨he, ⟨hi, hz, hskip⟩ | ⟨hlast, hskip⟩⟩ := h
    · exact ⟨he, .inl ⟨Nat.le_of_succ_le hi, hz, hskip.before hk hd⟩⟩
    · exact ⟨he, .inr ⟨hlast, hskip.before hk hd⟩⟩

/-- From place 50 on there is no position left. -/
theorem firstFrom_terminator (m : Memory) {i : Nat} (h : phaseIndex 25 .high ≤ i) :
    FirstFrom m i (.ended Config.terminator) :=
  ⟨Nat.le_refl 24, .inr ⟨rfl, skipped_of_le m h⟩⟩

/-- The loop answers the first position, if its fuel reaches to the end of the frame buffer. -/
theorem seekLoop_firstFrom (m : Memory) (fuel s : Nat) (ph : Phase)
    (hfuel : phaseIndex 25 .high ≤ fuel + phaseIndex s ph) : FirstFrom m (phaseIndex s ph) (seekLoop m fuel s ph) := by
  induction fuel generalizing s ph with
  | zero => exact firstFrom_terminator m (by rwa [Nat.zero_add] at hfuel)
  | succ fuel ih =>
    obtain ⟨hhigh, hlow⟩ := phaseIndex_bounds s ph
    rw [seekLoop, Config.nSlots]
    split_ifs with hend hzero hpos
    · exact firstFrom_terminator m (by rw [phaseIndex_high]; omega)
    · exact ⟨Nat.le_of_lt_succ (Nat.not_le.mp hend), .inl ⟨hlow, hzero, skipped_of_le m hhigh⟩⟩
    · exact ⟨Nat.not_le.mp hend, Nat.le_refl _, hzero, hpos, skipped_of_le m (Nat.le_refl _)⟩
    · have hrest := ih (after s ph).1 (after s ph).2 (by rw [phaseIndex_after]; omega)
      rw [phaseIndex_after] at hrest
      exact hrest.before hzero (Nat.eq_zero_of_not_pos hpos)

/-- Fifty-one visits reach to the end from any start. -/
theorem seek_firstFrom (m : Memory) (s : Nat) (ph : Phase) : FirstFrom m (phaseIndex s ph) (seek m s ph) :=
  seekLoop_firstFrom m 51 s ph (by rw [phaseIndex_high]; omega)

/-- Settles O13: the search's answer is right, with "before slot `e`" read as "before the place of (`e`, HIGH)". -/
theorem seekFindsTheFirstSendablePhase : Obligations.SeekFindsTheFirstSendablePhase := by
  unfold Obligations.SeekFindsTheFirstSendablePhase
  intro m s ph _ index
  have hfirst := seek_firstFrom m s ph
  have hbefore {e j : Nat} (q : Phase) (hj : j < e) : phaseIndex j q < phaseIndex e .high := by
    have := phaseIndex_bounds j q
    rw [phaseIndex_high]
    omega
  refine ⟨fun k p hk => ?position, fun e he => ?ended⟩
  case position =>
    rw [hk] at hfirst
    exact hfirst
  case ended =>
    rw [he] at hfirst
    obtain ⟨hle, ⟨hi, hz, hskip⟩ | ⟨hlast, hskip⟩⟩ := hfirst
    · have hse : s ≤ e := by
        have := phaseIndex_bounds s ph
        rw [phaseIndex_low] at hi
        omega
      exact ⟨hle, .inl ⟨hse, hz, fun j q hij hj => hskip j q hij (hbefore q hj)⟩⟩
    · exact ⟨hle, .inr ⟨hlast, fun j q hij hj => hskip j q hij (hbefore q hj)⟩⟩

/-! ### One tick of TX_END (R126) and of TX (R124) -/

theorem outputs_dout (s : State) : (outputs s).dout = (s.state == encode .tx && s.txPhase == .high) := rfl

theorem exec_txEnd_of_fault {s : State} (hf : s.input.txFault = true) :
    exec .txEnd s = .next (raiseFault .txFault s) := by
  rw [exec, execTxEnd, if_pos hf]

theorem exec_txEnd_drained {s : State} (hf : s.input.txFault = false) : exec .txEnd s = .next (goto .report s) := by
  rw [exec, execTxEnd, if_neg (by simp [hf])]

/-- Settles O16: TX_END has one branch for each value of `tx_fault`. -/
theorem txEndConfirmsOrFaults : Obligations.TxEndConfirmsOrFaults := by
  unfold Obligations.TxEndConfirmsOrFaults
  refine fun s => ⟨fun hs => ?_, exec_txEnd_of_fault, exec_txEnd_drained⟩
  rw [outputs_dout, hs]
  rfl

/-- A phase's ticks fit `tx_cnt` (R122). -/
theorem toNat_nextCount {s : State} (hd : s.txCnt.toNat + 1 < phaseTicks s) :
    (BitVec.ofNat 16 (s.txCnt.toNat + 1)).toNat = s.txCnt.toNat + 1 := by
  rw [BitVec.toNat_ofNat, Nat.mod_eq_of_lt (hd.trans (BitVec.isLt _))]

/-- What TX can do, whatever code `state` holds: the fault, a tick inside a phase, or a phase's last tick. -/
theorem tx_cases {s t : State} (h : exec .tx s = .next t) :
    s.input.txFault = true ∧ t = raiseFault .txFault s ∨
      s.input.txFault = false ∧ s.txCnt.toNat + 1 < phaseTicks s ∧
        t = goto .tx { s with txCnt := BitVec.ofNat 16 (s.txCnt.toNat + 1) } ∨
      s.input.txFault = false ∧ phaseTicks s ≤ s.txCnt.toNat + 1 ∧ t = handOver (nextPhase s) { s with txCnt := 0 } := by
  rw [exec] at h
  cases hf : s.input.txFault with
  | true =>
    rw [execTx_of_fault hf] at h
    exact .inl ⟨rfl, (Host.Outcome.next.inj h).symm⟩
  | false =>
    rcases Nat.lt_or_ge 24 s.txSlot.toNat with hslot | hslot
    · rw [execTx_outside hf hslot] at h
      cases h
    rcases Nat.lt_or_ge (s.txCnt.toNat + 1) (phaseTicks s) with hd | hd
    · rw [execTx_within hf hslot hd] at h
      exact .inr (.inl ⟨rfl, hd, (Host.Outcome.next.inj h).symm⟩)
    · rw [execTx_last hf hslot hd] at h
      exact .inr (.inr ⟨rfl, hd, (Host.Outcome.next.inj h).symm⟩)

/-- A hand-over writes `tx_slot`, `tx_phase` and `state`. -/
theorem handOver_writes (p : SeekResult) (s : State) :
    handOver p s =
      { s with
        txSlot := (handOver p s).txSlot
        txPhase := (handOver p s).txPhase
        state := (handOver p s).state } := by
  cases p <;> rfl

/-- Settles O14: without a fault TX answers by one of two branches, told apart by the ticks left in the phase. -/
theorem txSendsOneTick : Obligations.TxSendsOneTick := by
  unfold Obligations.TxSendsOneTick
  refine fun s => ⟨fun hs => ?dout, execTx_of_fault, fun hf hslot => ?tick⟩
  case dout =>
    rw [outputs_dout, hs]
    rfl
  case tick =>
    rcases Nat.lt_or_ge (s.txCnt.toNat + 1) (phaseTicks s) with hd | hd
    · exact ⟨_, execTx_within hf hslot hd, fun _ => ⟨toNat_nextCount hd, rfl, rfl⟩,
        fun hlast => absurd hd (Nat.not_lt.mpr hlast), rfl, fun _ => rfl⟩
    · refine ⟨_, execTx_last hf hslot hd, fun hwithin => absurd hwithin (Nat.not_lt.mpr hd),
        fun _ => ⟨handOver_txCnt _ _, fun k hk => handOver_seek_ended hk _, fun k ph hk => handOver_seek_position hk _⟩,
        ?_, fun k => by rw [handOver_frame]⟩
      rw [handOver_txCnt]
      exact handOver_writes _ _

/-! ### The transmit position and the waveform left (R122, R125) -/

/-- `Sending s w`: from `s` on, TX is to drive `w`, or `w` is empty and the block is in TX_END. -/
structure Sending (s : State) (w : List Bool) : Prop where
  position : PositionOk s
  terminator : s.frame.slot 24 = Slot.zero
  rest : s.state = encode .txEnd ∧ w = [] ∨
    s.state = encode .tx ∧ w = waveRest s.frame s.txSlot.toNat s.txPhase s.txCnt.toNat

theorem PositionOk.endTick {s : State} (h : PositionOk s) : PositionOk s.endTick where
  slot_in_range := h.slot_in_range
  sending := fun hs => (h.sending hs).of_fields rfl rfl rfl rfl
  ended := h.ended
  idle := h.idle

theorem Sending.endTick {s : State} {w : List Bool} (h : Sending s w) : Sending s.endTick w :=
  ⟨h.position.endTick, h.terminator, h.rest⟩

/-- What R122 says of the position in TX and in TX_END. -/
theorem PositionOk.transmit {s : State} (h : PositionOk s) :
    (s.state = encode .tx → TxPosition s) ∧
      (s.state = encode .txEnd → s.txSlot.toNat = endSlot s.frame ∧ s.txPhase = .high) :=
  ⟨h.sending, fun hs => ⟨h.ended hs, (h.idle (by rw [hs]; decide) (by rw [hs]; decide)).1⟩⟩

/-- A hand-over leaves to send what the search leaves. -/
theorem handOver_sending {s : State} {p : SeekResult} {w : List Bool} (hp : Sends s.frame p w)
    (hz : s.frame.slot 24 = Slot.zero) (hc : s.txCnt = 0) : Sending (handOver p s) w where
  position := handOver_positionOk hp hz hc
  terminator := by rw [handOver_frame, hz]
  rest := by
    cases hp with
    | ended => exact .inl ⟨rfl, rfl⟩
    | position k ph hk _ =>
      have hslot : k ≤ 24 := (Nat.le_of_lt hk).trans (endSlot_le_of_terminator hz)
      refine .inr ⟨rfl, ?_⟩
      rw [handOver_frame, handOver_txCnt, handOver_position_txSlot, handOver_position_txPhase, toNat_slotIndex hslot, hc]
      rfl

/-- After ENCODE the whole waveform is left. -/
theorem encode_sending {s t : State} (hm : s.frame.wf = true) (h : exec .encode s = .next t) :
    Sending t (waveform t.frame) := by
  have hz : t.frame.slot 24 = Slot.zero := by rw [(encode_frame_fault h).1, encodedFrame_terminator hm]
  have hover := handOver_sending (s := { s with frame := t.frame, txCnt := 0 }) (seek_zero_sends hz) hz rfl
  rwa [← encode_handOver h] at hover

/-- A TX tick without a fault drives the first value of what is left. -/
theorem tx_sending {s t : State} (h : exec .tx s = .next t) (hf : s.input.txFault = false)
    (hz : s.frame.slot 24 = Slot.zero) (hpos : TxPosition s) :
    ∃ w, waveRest s.frame s.txSlot.toNat s.txPhase s.txCnt.toNat = (s.txPhase == .high) :: w ∧ Sending t w ∧
      t.frame = s.frame := by
  rcases tx_cases h with ⟨hf', _⟩ | ⟨_, hd, rfl⟩ | ⟨_, hd, rfl⟩
  · simp [hf] at hf'
  · have hslot : s.txSlot.toNat ≤ 24 := (Nat.le_of_lt hpos.before_end).trans (endSlot_le_of_terminator hz)
    refine ⟨_, waveRest_within hpos.ticks_left, ⟨txWithin_positionOk hslot hpos hd, hz, .inr ⟨rfl, ?_⟩⟩, rfl⟩
    rw [goto_txCnt, toNat_nextCount hd]
    rfl
  · refine ⟨_, waveRest_last hpos.ticks_left hd, ?_, handOver_frame _ _⟩
    exact handOver_sending (s := { s with txCnt := 0 }) (seek_after_sends hz hpos.before_end s.txPhase) hz rfl

/-- Settles O41: the hand-over of a search, and a tick inside a phase, leave a position that R122 allows; a fault leaves
TX for HALT. -/
theorem transmitPositionIsKept : Obligations.TransmitPositionIsKept := by
  unfold Obligations.TransmitPositionIsKept
  refine ⟨fun s t hm h => (encode_sending hm h).position.transmit, fun s t hz hpos h => ?_⟩
  cases hf : s.input.txFault with
  | false =>
    obtain ⟨_, _, hsending, _⟩ := tx_sending h hf hz hpos
    exact hsending.position.transmit
  | true =>
    rw [exec, execTx_of_fault hf] at h
    obtain rfl := Host.Outcome.next.inj h
    exact ⟨fun hs => absurd hs (by simp [encode]), fun hs => absurd hs (by simp [encode])⟩

/-! ### A whole transmission (R125) -/

theorem Sending.nil_state {s : State} (h : Sending s []) : s.state = encode .txEnd := by
  rcases h.rest with ⟨hs, _⟩ | ⟨hs, hw⟩
  · exact hs
  · rw [waveRest_within (h.position.sending hs).ticks_left] at hw
    cases hw

theorem Sending.cons_state {s : State} {b : Bool} {w : List Bool} (h : Sending s (b :: w)) :
    s.state = encode .tx ∧ b :: w = waveRest s.frame s.txSlot.toNat s.txPhase s.txCnt.toNat := by
  rcases h.rest with ⟨_, hw⟩ | hs
  · cases hw
  · exact hs

theorem Sending.dout {s : State} {b : Bool} {w : List Bool} (h : Sending s (b :: w)) : (outputs s).dout = b := by
  obtain ⟨hs, hw⟩ := h.cons_state
  rw [waveRest_within (h.position.sending hs).ticks_left] at hw
  rw [outputs_dout, hs, (List.cons.inj hw).1]
  rfl

/-- One tick without reset or fault goes one value on in the waveform. -/
theorem Sending.step {s : State} {b : Bool} {w : List Bool} (h : Sending s (b :: w)) (hr : s.input.rst = false)
    (hf : s.input.txFault = false) : ∃ t, step s = .next t ∧ Sending t w ∧ t.frame = s.frame := by
  obtain ⟨hs, hw⟩ := h.cons_state
  obtain ⟨u, hu⟩ := exec_answers h.position.slot_in_range
  have htx : exec .tx s = .next u := by rwa [hs, decode_encode_tx] at hu
  obtain ⟨w', hw', hsending, hframe⟩ := tx_sending htx hf h.terminator (h.position.sending hs)
  obtain rfl : w = w' := (List.cons.inj (hw.trans hw')).2
  exact ⟨u.endTick, step_of_exec hr hu, hsending.endTick, hframe⟩

/-- After `i` ticks without reset or fault, `i` values of the waveform have been sent. -/
theorem Sending.run {s : State} {w : List Bool} (h : Sending s w) {i : Nat} (hi : i ≤ w.length) (hr : NoReset i s)
    (hf : ∀ j < i, (s.inputAt j).txFault = false) :
    ∃ t, run i s = .next t ∧ Sending t (w.drop i) ∧ t.frame = s.frame := by
  induction i with
  | zero => exact ⟨s, rfl, h, rfl⟩
  | succ i ih =>
    obtain ⟨t, ht, hsending, hframe⟩ :=
      ih (Nat.le_of_succ_le hi) (fun j hj => hr j (Nat.lt_succ_of_lt hj)) (fun j hj => hf j (Nat.lt_succ_of_lt hj))
    have hinput : t.input = s.inputAt i := inputAt_of_run ht 0
    rw [List.drop_eq_getElem_cons hi] at hsending
    obtain ⟨u, hu, hsending', hframe'⟩ :=
      hsending.step (hinput ▸ hr i (Nat.lt_succ_self i)) (hinput ▸ hf i (Nat.lt_succ_self i))
    exact ⟨u, run_then_step ht hu, hsending', hframe'.trans hframe⟩

/-- Settles O42: ENCODE leaves the whole waveform to send, and each tick after it sends one value. -/
theorem transmissionDrivesTheWaveform : Obligations.TransmissionDrivesTheWaveform := by
  unfold Obligations.TransmissionDrivesTheWaveform
  intro s u hm hs hu hr hf
  rw [Nat.add_comm] at hr
  have hstep : step s = .next u.endTick := step_of_exec hr.first (by rw [hs]; exact hu)
  have hsent (i : Nat) (hi : i ≤ (waveform u.frame).length) : ∃ t, run (1 + i) s = .next t ∧
      Sending t ((waveform u.frame).drop i) ∧ t.frame = u.frame := by
    obtain ⟨t, ht, hsending, hframe⟩ := (encode_sending hm hu).endTick.run hi
      (fun j hj => hr.rest hstep j (hj.trans_le hi)) fun j hj => by
        rw [inputAt_of_step hstep, Nat.add_comm]
        exact hf j (hj.trans_le hi)
    exact ⟨t, by rw [Nat.add_comm, run_succ_of_step hstep, ht], hsending, hframe⟩
  constructor
  · intro i hi
    obtain ⟨t, ht, hsending, hframe⟩ := hsent i (Nat.le_of_lt hi)
    rw [List.drop_eq_getElem_cons hi] at hsending
    exact ⟨t, ht, hsending.cons_state.1, by rw [hsending.dout, List.getElem?_eq_getElem hi], hframe⟩
  · obtain ⟨t, ht, hsending, hframe⟩ := hsent _ (Nat.le_refl _)
    rw [List.drop_length] at hsending
    exact ⟨t, ht, hsending.nil_state, by rw [outputs_dout, hsending.nil_state]; rfl, hframe⟩

/-! ### The length of a transmission (R128) -/

/-- A data slot of either pattern lasts a bit period. -/
theorem slotWave_length {s : State} (h : HoldsPatterns s) {k : Nat} (hk : k < 24) :
    (slotWave (slotOperand s k)).length = bitTicks s.clkMhzR.toNat := by
  obtain ⟨hhi, hlo⟩ := slotOperand_ticks h hk
  rw [slotWave, List.length_append, List.length_replicate, List.length_replicate, hhi, hlo, bitTicks]
  cases sel s k with
  | true => exact Nat.add_comm _ _
  | false => rfl

/-- Settles O43: 24 data slots of one bit period each from 2 MHz on, an empty first slot below. -/
theorem transmissionLength : Obligations.TransmissionLength := by
  unfold Obligations.TransmissionLength
  intro s t hm hp ht
  rw [(encode_frame_fault ht).1]
  refine ⟨fun hf => ⟨endSlot_encodedFrame hm hp hf, fun k hk => ?slot, ?total⟩, fun hf => ?empty⟩
  case slot =>
    rw [encodedFrame_slot hm, if_pos (by omega)]
    exact slotWave_length hp hk
  case total =>
    have hlengths : (List.range 24).map (fun k => (slotWave (slotOperand s k)).length) =
        List.replicate 24 (bitTicks s.clkMhzR.toNat) :=
      List.map_eq_replicate_iff.mpr fun k hk => slotWave_length hp (List.mem_range.mp hk)
    rw [waveform_encodedFrame hm hp hf, List.length_flatMap, hlengths, List.sum_replicate, smul_eq_mul, bitTicks]
  case empty => rw [waveform_eq_nil (encodedFrame_slot_zero hm hp hf 0), List.length_nil]

/-! ### After a transmit fault (R130) -/

theorem step_txFault {s : State} (hs : s.state = encode .tx ∨ s.state = encode .txEnd) (hr : s.input.rst = false)
    (hf : s.input.txFault = true) : step s = .next (raiseFault .txFault s).endTick := by
  refine step_of_exec hr ?_
  rcases hs with hs | hs
  · rw [hs]
    exact execTx_of_fault hf
  · rw [hs]
    exact exec_txEnd_of_fault hf

theorem step_halt {s : State} (hs : s.state = encode .halt) (hr : s.input.rst = false) : step s = .next s.endTick :=
  step_of_exec hr (by rw [hs, decode_encode_halt, exec, execHalt, goto_self hs])

/-- HALT changes no register until a reset (R153). -/
theorem run_halt {n : Nat} {s : State} (hs : s.state = encode .halt) (hr : NoReset n s) :
    ∃ t, run n s = .next t ∧ SameRegisters s t := by
  induction n with
  | zero => exact ⟨s, rfl, rfl⟩
  | succ n ih =>
    obtain ⟨t, ht, hsame⟩ := ih fun j hj => hr j (Nat.lt_succ_of_lt hj)
    have hhalt : t.state = encode .halt := by rw [hsame]; exact hs
    have hinput : t.input = s.inputAt n := inputAt_of_run ht 0
    exact ⟨t.endTick, run_then_step ht (step_halt hhalt (hinput ▸ hr n (Nat.lt_succ_self n))),
      hsame.trans (sameRegisters_endTick t)⟩

/-- Settles O44: the faulting tick enters HALT, whose registers, and so the outputs, then stay. -/
theorem transmitFaultEndsTheLoop : Obligations.TransmitFaultEndsTheLoop := by
  unfold Obligations.TransmitFaultEndsTheLoop
  intro n s hs hf hnone hr
  have hstep := step_txFault hs hr.first hf
  obtain ⟨t, ht, hsame⟩ := run_halt (s := (raiseFault .txFault s).endTick) rfl (hr.rest hstep)
  refine ⟨t, (run_succ_of_step hstep n).trans ht, ?_⟩
  rw [hsame]
  exact ⟨rfl, if_pos hnone, rfl, rfl, rfl⟩

end Sys2Proof.Machine
end

section
/-! PROOFS. The statements about spec/44_report_pace.md: what REPORT presents and loads (R140), one tick and the length
of PACE (R143), and one iteration from SAMPLE to SAMPLE with its one report (R142, R144). -/

namespace Sys2Proof.Machine

/-! ### REPORT (R140) -/

theorem outputs_rptValid (s : State) : (outputs s).rptValid = (s.state == encode .report) := rfl

theorem exec_report (s : State) :
    exec .report s = .next (goto .pace { s with paceCnt := BitVec.ofNat 32 (paceTicks s.clkMhzR.toNat) }) := rfl

/-- Settles O17: the buses are the registers, and the pace length fits `pace_cnt`. -/
theorem reportPresentsAndLoadsThePace : Obligations.ReportPresentsAndLoadsThePace := by
  unfold Obligations.ReportPresentsAndLoadsThePace
  intro s
  refine ⟨fun hs => ⟨?valid, rfl, rfl, rfl, rfl⟩, _, exec_report s, toNat_paceTicks s.clkMhzR, rfl, rfl, fun _ => rfl⟩
  case valid =>
    rw [outputs_rptValid, hs]
    rfl

/-! ### PACE (R143) -/

theorem exec_pace_done {s : State} (h : s.paceCnt.toNat ≤ 1) :
    exec .pace s = .next (goto .sample { s with paceCnt := 0 }) := by
  rw [exec, execPace, if_pos h]

theorem exec_pace_waiting {s : State} (h : 1 < s.paceCnt.toNat) :
    exec .pace s = .next (goto .pace { s with paceCnt := BitVec.ofNat 32 (s.paceCnt.toNat - 1) }) := by
  rw [exec, execPace, if_neg (Nat.not_le.mpr h)]

theorem toNat_paceLeft (p : BitVec 32) : (BitVec.ofNat 32 (p.toNat - 1)).toNat = p.toNat - 1 := by
  rw [BitVec.toNat_ofNat, Nat.mod_eq_of_lt (by omega)]

theorem step_pace {s t : State} (hs : s.state = encode .pace) (hr : s.input.rst = false) (h : exec .pace s = .next t) :
    step s = .next t.endTick :=
  step_of_exec hr (by rwa [hs, decode_encode_pace])

/-- PACE with `p` ticks before its last one: each of them lowers the count, and the last one leaves for SAMPLE. -/
theorem run_pace {p : Nat} {s : State} (hs : s.state = encode .pace) (hp : max 1 s.paceCnt.toNat = p + 1)
    (hr : NoReset (p + 1) s) :
    (∀ j < p + 1, ∃ t, run j s = .next t ∧ t.state = encode .pace) ∧
      ∃ t, run (p + 1) s = .next t ∧ SameRegisters { s with paceCnt := 0, state := encode .sample } t := by
  induction p generalizing s with
  | zero =>
    have hstep := step_pace hs hr.first (exec_pace_done (by omega))
    refine ⟨fun j hj => ?_, _, run_succ_of_step hstep 0, rfl⟩
    obtain rfl := Nat.lt_one_iff.mp hj
    exact ⟨s, rfl, hs⟩
  | succ p ih =>
    have hstep := step_pace hs hr.first (exec_pace_waiting (by omega))
    obtain ⟨hwait, t, ht, hsame⟩ := ih rfl (by rw [endTick_paceCnt, goto_paceCnt, toNat_paceLeft]; omega) (hr.rest hstep)
    refine ⟨fun j hj => ?_, t, (run_succ_of_step hstep _).trans ht, hsame⟩
    cases j with
    | zero => exact ⟨s, rfl, hs⟩
    | succ j =>
      rw [run_succ_of_step hstep]
      exact hwait j (Nat.lt_of_succ_lt_succ hj)

/-- Settles O18: each tick takes the branch of the count, and a run of PACE is at least its last tick. -/
theorem paceCountsDown : Obligations.PaceCountsDown := by
  unfold Obligations.PaceCountsDown
  refine ⟨fun s => ?tick, fun s hs hr => ?run⟩
  case tick =>
    rcases Nat.lt_or_ge 1 s.paceCnt.toNat with h | h
    · exact ⟨_, exec_pace_waiting h, fun h' => absurd h (Nat.not_lt.mpr h'), fun _ => ⟨toNat_paceLeft _, rfl⟩, rfl,
        fun _ => rfl⟩
    · exact ⟨_, exec_pace_done h, fun _ => ⟨rfl, rfl⟩, fun h' => absurd h' (Nat.not_lt.mpr h), rfl, fun _ => rfl⟩
  case run =>
    obtain ⟨p, hp⟩ := Nat.exists_eq_add_of_le' (Nat.le_max_left 1 s.paceCnt.toNat)
    rw [hp] at hr ⊢
    exact run_pace hs hp hr

/-! ### Runs through named operations -/

/-- `RunsThrough ops n s t`: `n` ticks from `s` lead to `t`, each of them a tick of one of the operations `ops`. -/
structure RunsThrough (ops : List Instr) (n : Nat) (s t : State) : Prop where
  reaches : run n s = .next t
  within : ∀ j < n, ∃ u, run j s = .next u ∧ decode u.state ∈ ops

theorem RunsThrough.append {ops ops' : List Instr} {m n k : Nat} {s t u : State} (h : RunsThrough ops m s t)
    (h' : RunsThrough ops' n t u) (hk : m + n = k) : RunsThrough (ops ++ ops') k s u := by
  subst hk
  refine ⟨(run_add h.reaches n).trans h'.reaches, fun j hj => ?_⟩
  rcases Nat.lt_or_ge j m with hjm | hjm
  · obtain ⟨v, hv, hop⟩ := h.within j hjm
    exact ⟨v, hv, List.mem_append_left _ hop⟩
  · obtain ⟨i, rfl⟩ := Nat.exists_eq_add_of_le hjm
    obtain ⟨v, hv, hop⟩ := h'.within i (Nat.lt_of_add_lt_add_left hj)
    exact ⟨v, (run_add h.reaches i).trans hv, List.mem_append_right _ hop⟩

theorem RunsThrough.of_step {s t : State} (h : step s = .next t) : RunsThrough [decode s.state] 1 s t := by
  refine ⟨run_succ_of_step h 0, fun j hj => ?_⟩
  obtain rfl := Nat.lt_one_iff.mp hj
  exact ⟨s, rfl, List.mem_singleton_self _⟩

/-- The last of the ticks, apart from those before it. -/
theorem RunsThrough.last {ops : List Instr} {n : Nat} {s t : State} (h : RunsThrough ops (n + 1) s t) :
    ∃ u, RunsThrough ops n s u ∧ decode u.state ∈ ops ∧ step u = .next t := by
  obtain ⟨u, hu, hop⟩ := h.within n (Nat.lt_succ_self n)
  refine ⟨u, ⟨hu, fun j hj => h.within j (Nat.lt_succ_of_lt hj)⟩, hop, ?_⟩
  have hrun : run 1 u = .next t := (run_add hu 1).symm.trans h.reaches
  cases hs : step u with
  | next v => rwa [run_succ_of_step hs] at hrun
  | fault r => rw [run, hs] at hrun; cases hrun
  | refused r => rw [run, hs] at hrun; cases hrun

theorem RunsThrough.invariant {ops : List Instr} {n : Nat} {s t : State} (h : RunsThrough ops n s t)
    (hi : Invariant s) : Invariant t := by
  obtain ⟨u, hu, hinv⟩ := run_answers_of_invariant hi n
  obtain rfl := Host.Outcome.next.inj (h.reaches.symm.trans hu)
  exact hinv

theorem NoReset.after {k m n : Nat} {s t : State} (h : NoReset k s) (ht : run m s = .next t) (hk : m + n ≤ k) :
    NoReset n t := by
  intro j hj
  rw [inputAt_of_run ht]
  exact h (m + j) (by omega)

/-- `raw` is SAMPLE's to write (R16). -/
theorem RunsThrough.raw_kept {ops : List Instr} {n : Nat} {s t : State} (h : RunsThrough ops n s t)
    (hops : Instr.sample ∉ ops) (hr : NoReset n s) : t.raw = s.raw := by
  induction n generalizing t with
  | zero => rw [Host.Outcome.next.inj h.reaches]
  | succ n ih =>
    obtain ⟨u, hu, hop, hstep⟩ := h.last
    obtain ⟨v, hv, rfl⟩ := opCase_of_step hstep (hr.after hu.reaches (Nat.le_refl _)).first
    have hkept : v.raw = u.raw :=
      (opCase_raw hv).resolve_left fun hs => hops (by rwa [hs.1, decode_encode_sample] at hop)
    exact hkept.trans (ih hu fun j hj => hr j (Nat.lt_succ_of_lt hj))

/-- No report in a run that keeps away from REPORT. -/
theorem RunsThrough.no_report {ops : List Instr} {n : Nat} {s t : State} (h : RunsThrough ops n s t)
    (hops : Instr.report ∉ ops) {j : Nat} (hj : j < n) : ∃ u, run j s = .next u ∧ (outputs u).rptValid = false := by
  obtain ⟨u, hu, hop⟩ := h.within j hj
  refine ⟨u, hu, ?_⟩
  rw [outputs_rptValid, beq_eq_false_iff_ne]
  exact fun hs => hops (by rwa [hs, decode_encode_report] at hop)

/-! ### One iteration (R142, R144) -/

/-- Under the invariant a tick without reset answers, and with the successor of the table (R61). -/
theorem tick_of_invariant {s : State} {i : Instr} (hi : Invariant s) (hop : decode s.state = i)
    (hr : s.input.rst = false) : ∃ t, RunsThrough [i] 1 s t ∧ t.state = successorCode s i := by
  subst hop
  obtain ⟨t, ht, _⟩ := stepKeepsTheInvariant s hi
  obtain ⟨u, hu, rfl⟩ := opCase_of_step ht hr
  exact ⟨u.endTick, .of_step ht, (endTick_state u).trans (opCase_state hu)⟩

/-- SAMPLE up to the tick that latches the code (R100, R101). -/
theorem sample_runsThrough {n : Nat} {s : State} (hs : s.state = encode .sample) (hr : NoReset (n + 1) s)
    (ha : AdcReadyAfter n s) :
    ∃ t, RunsThrough [.sample] (n + 1) s t ∧ t.state = encode .convert ∧ t.raw = (s.inputAt n).adcData ∧
      t.clkMhzR = s.clkMhzR := by
  obtain ⟨t, ht, hsame⟩ := run_sample_valid hs hr ha
  refine ⟨t, ⟨ht, fun j hj => ?_⟩, by rw [hsame], by rw [hsame], by rw [hsame]⟩
  obtain ⟨u, hu, hsame'⟩ := run_sample_notReady hs (fun i hi => hr i (hi.trans hj))
    fun i hi => ha.1 i (hi.trans_le (Nat.le_of_lt_succ hj))
  exact ⟨u, hu, by rw [hsame', hs]; decide⟩

/-- The waveform of the frame that ENCODE writes has R128's length, once CALC has run. -/
theorem encode_waveform_length {s t : State} (hi : Invariant s) (hs : s.state = encode .encode)
    (h : exec .encode s = .next t) : (waveform t.frame).length = transmitTicks s.clkMhzR.toNat := by
  have hpatterns : HoldsPatterns s := hi.patterns (hi.calc_done (by rw [hs]; rfl))
  obtain ⟨hlong, hshort⟩ := transmissionLength s t hi.frame_canonical hpatterns h
  rw [transmitTicks]
  split_ifs with hf
  · exact (hlong hf).2.2
  · exact hshort (by omega)

/-- A transmission from ENCODE to REPORT: the frequency alone decides how long the waveform is (R125, R126, R128). -/
theorem transmit_runsThrough {s : State} (hi : Invariant s) (hs : s.state = encode .encode)
    (hr : NoReset (2 + transmitTicks s.clkMhzR.toNat) s)
    (hf : ∀ j ≤ transmitTicks s.clkMhzR.toNat, (s.inputAt (1 + j)).txFault = false) :
    ∃ t, RunsThrough [.encode, .tx, .txEnd] (2 + transmitTicks s.clkMhzR.toNat) s t ∧ t.state = encode .report := by
  obtain ⟨u, hu⟩ : ∃ u, exec .encode s = .next u := ⟨_, exec_encode s⟩
  rw [← encode_waveform_length hi hs hu] at hr hf ⊢
  obtain ⟨hsend, t, ht, hstate, -⟩ := transmissionDrivesTheWaveform s u hi.frame_canonical hs hu
    (fun j hj => hr j (by omega)) fun j hj => hf j hj.le
  have hsent : RunsThrough [.encode, .tx] (1 + (waveform u.frame).length) s t := by
    refine ⟨ht, fun j hj => ?_⟩
    cases j with
    | zero => exact ⟨s, rfl, by rw [hs]; decide⟩
    | succ j =>
      obtain ⟨v, hv, hvstate, -⟩ := hsend j (by omega)
      exact ⟨v, by rw [Nat.add_comm, hv], by rw [hvstate]; decide⟩
  have hfault : t.input.txFault = false := by
    rw [← inputAt_zero, inputAt_of_run ht]
    exact hf _ (Nat.le_refl _)
  obtain ⟨v, hend, hv⟩ := tick_of_invariant (hsent.invariant hi) (i := .txEnd) (by rw [hstate]; rfl)
    (hr.after ht (n := 1) (by omega)).first
  exact ⟨v, hsent.append hend (by omega), hv.trans (if_neg (by simp [hfault]))⟩

/-- From the latched code to its report: CONVERT and MAP take a tick each, and do not touch the frequency. -/
theorem convert_runsThrough {s : State} (hi : Invariant s) (hs : s.state = encode .convert)
    (hr : NoReset (4 + transmitTicks s.clkMhzR.toNat) s)
    (hf : ∀ j ≤ transmitTicks s.clkMhzR.toNat, (s.inputAt (3 + j)).txFault = false) :
    ∃ t, RunsThrough [.convert, .map, .encode, .tx, .txEnd] (4 + transmitTicks s.clkMhzR.toNat) s t ∧
      t.state = encode .report := by
  obtain ⟨a, hconvert, ha⟩ := tick_of_invariant hi (i := .convert) (by rw [hs]; rfl) (hr 0 (by omega))
  obtain ⟨b, hmap, hb⟩ := tick_of_invariant (hconvert.invariant hi) (i := .map) (by rw [ha, successorCode]; rfl)
    (hr.after hconvert.reaches (n := 1) (by omega)).first
  have hmapped := hconvert.append hmap rfl
  have hclk : b.clkMhzR = s.clkMhzR :=
    (run_pastCalc hmapped.reaches (fun j hj => hr j (by omega)) (by rw [PastCalc, hs]; decide)).2.clk
  rw [← hclk] at hr hf ⊢
  obtain ⟨t, hsend, ht⟩ := transmit_runsThrough (hmapped.invariant hi) hb (hr.after hmapped.reaches (by omega))
    fun j hj => by
      rw [inputAt_of_run hmapped.reaches, ← Nat.add_assoc]
      exact hf j hj
  exact ⟨t, hmapped.append hsend (by omega), ht⟩

/-- From SAMPLE to the report of the code that SAMPLE latches: `raw` keeps it until the next SAMPLE. -/
theorem sample_runsThrough_report {n : Nat} {s : State} (hi : Invariant s) (hs : s.state = encode .sample)
    (ha : AdcReadyAfter n s) (hr : NoReset (n + 5 + transmitTicks s.clkMhzR.toNat) s)
    (hf : ∀ j ≤ transmitTicks s.clkMhzR.toNat, (s.inputAt (n + 4 + j)).txFault = false) :
    ∃ t, RunsThrough [.sample, .convert, .map, .encode, .tx, .txEnd] (n + 5 + transmitTicks s.clkMhzR.toNat) s t ∧
      t.state = encode .report ∧ t.raw = (s.inputAt n).adcData := by
  obtain ⟨a, hsample, hstate, hraw, hclk⟩ := sample_runsThrough hs (fun j hj => hr j (by omega)) ha
  rw [← hclk] at hr hf ⊢
  have hr' : NoReset (4 + transmitTicks a.clkMhzR.toNat) a := hr.after hsample.reaches (by omega)
  obtain ⟨t, hrest, ht⟩ := convert_runsThrough (hsample.invariant hi) hstate hr' fun j hj => by
    rw [inputAt_of_run hsample.reaches, ← Nat.add_assoc]
    exact hf j hj
  exact ⟨t, hsample.append hrest (by omega), ht, (hrest.raw_kept (by decide) hr').trans hraw⟩

/-- From the report to the next SAMPLE: REPORT loads the count that PACE takes down. -/
theorem report_runsThrough {s : State} (hs : s.state = encode .report)
    (hr : NoReset (1 + paceLength s.clkMhzR.toNat) s) :
    ∃ t u, RunsThrough [.report] 1 s t ∧ RunsThrough [.pace] (paceLength s.clkMhzR.toNat) t u ∧
      u.state = encode .sample := by
  have hreport := RunsThrough.of_step (step_of_exec (hr 0 (by omega)) (by rw [hs]; exact exec_report s))
  rw [hs, decode_encode_report] at hreport
  obtain ⟨p, hp⟩ : ∃ p, paceLength s.clkMhzR.toNat = p + 1 := Nat.exists_eq_add_of_le' (Nat.le_max_left 1 _)
  rw [hp] at hr ⊢
  obtain ⟨hwait, u, hu, hsame⟩ := run_pace rfl
    (by rw [endTick_paceCnt, goto_paceCnt, toNat_paceTicks, ← paceLength, hp]) (hr.after hreport.reaches (by omega))
  refine ⟨_, u, hreport, ⟨hu, fun j hj => ?_⟩, by rw [hsame]⟩
  obtain ⟨v, hv, hstate⟩ := hwait j hj
  exact ⟨v, hv, by rw [hstate]; decide⟩

/-- One iteration: to the report, the report, the pace. -/
theorem iteration_runsThrough {n : Nat} {s : State} (hi : Invariant s) (hs : s.state = encode .sample)
    (ha : AdcReadyAfter n s) (hr : NoReset (iterationTicks n s.clkMhzR.toNat) s)
    (hf : ∀ j ≤ transmitTicks s.clkMhzR.toNat, (s.inputAt (n + 4 + j)).txFault = false) :
    ∃ t v u, RunsThrough [.sample, .convert, .map, .encode, .tx, .txEnd] (n + 5 + transmitTicks s.clkMhzR.toNat) s t ∧
      RunsThrough [.report] 1 t v ∧ RunsThrough [.pace] (paceLength s.clkMhzR.toNat) v u ∧
      t.state = encode .report ∧ t.raw = (s.inputAt n).adcData ∧ u.state = encode .sample ∧
      u.clkMhzR = s.clkMhzR := by
  have hclk {ops : List Instr} {m : Nat} {w : State} (h : RunsThrough ops m s w)
      (hm : m ≤ iterationTicks n s.clkMhzR.toNat) : w.clkMhzR = s.clkMhzR :=
    (run_pastCalc h.reaches (fun j hj => hr j (hj.trans_le hm)) (by rw [PastCalc, hs]; decide)).2.clk
  obtain ⟨t, hbefore, ht, hraw⟩ := sample_runsThrough_report hi hs ha
    (fun j hj => hr j (by rw [iterationTicks]; omega)) hf
  have hclkt := hclk hbefore (by rw [iterationTicks]; omega)
  obtain ⟨v, u, hreport, hpace, hu⟩ := report_runsThrough ht
    (hr.after hbefore.reaches (by rw [hclkt, iterationTicks]; omega))
  rw [hclkt] at hpace
  exact ⟨t, v, u, hbefore, hreport, hpace, ht, hraw, hu,
    hclk ((hbefore.append hreport rfl).append hpace rfl) (by rw [iterationTicks]; omega)⟩

/-- A report shows the voltage and the colour of the code in `raw`. -/
theorem report_of_invariant {s : State} (hi : Invariant s) (hs : s.state = encode .report) :
    (outputs s).rptMv.toNat = s.raw.toNat * 3300 / 4095 ∧
      (outputs s).rptR.toNat = redOf (s.raw.toNat * 3300 / 4095) ∧ (outputs s).rptG = 0 ∧
      (outputs s).rptB.toNat = blueOf (s.raw.toNat * 3300 / 4095) := by
  have hv := hi.voltage_current (by rw [hs]; rfl)
  obtain ⟨hred, hblue⟩ := hi.colour_current (by rw [hs]; rfl)
  rw [← hv]
  exact ⟨rfl, hred, hi.green_zero, hblue⟩

/-- Settles O47: the parts of the iteration add up to its length, REPORT is one of their ticks alone, and there the
invariant ties the buses to `raw`. -/
theorem oneIterationOneReport : Obligations.OneIterationOneReport := by
  unfold Obligations.OneIterationOneReport
  intro n s hi hs ha f len total hr hf
  obtain ⟨t, v, u, hbefore, hreport, hpace, ht, hraw, hu, hclk⟩ := iteration_runsThrough hi hs ha hr hf
  have htotal : n + 5 + len + 1 + paceLength f = total := by
    simp only [total, paceLength]
    omega
  have hreported : RunsThrough _ (n + 5 + len + 1) s v := hbefore.append hreport rfl
  refine ⟨⟨u, (hreported.append hpace htotal).reaches, hu, hclk⟩, fun j hj => ?ticks, t, hbefore.reaches, ?buses⟩
  case ticks =>
    rcases Nat.lt_trichotomy j (n + 5 + len) with h | rfl | h
    · obtain ⟨w, hw, hquiet⟩ := hbefore.no_report (by decide) h
      exact ⟨w, hw, by simp [hquiet, h.ne]⟩
    · exact ⟨t, hbefore.reaches, by simp [outputs_rptValid, ht]⟩
    · obtain ⟨i, rfl⟩ := Nat.exists_eq_add_of_le (Nat.succ_le_of_lt h)
      obtain ⟨w, hw, hquiet⟩ := hpace.no_report (by decide) (Nat.lt_of_add_lt_add_left (hj.trans_eq htotal.symm))
      exact ⟨w, (run_add hreported.reaches i).trans hw, by simp [hquiet, h.ne']⟩
  case buses =>
    rw [← hraw]
    exact report_of_invariant (hbefore.invariant hi) ht

end Sys2Proof.Machine
end

section
/-! PROOFS. The statements about spec/60_exceptions.md: the causes of the fault codes (R150), what raising a fault writes
(R152), HALT (R153, R157) and the reserved codes (R155), and the priorities within a tick (R156). -/

namespace Sys2Proof.Machine

/-! ### The causes (R150) -/

/-- What raises each fault code in a tick without reset; nothing raises NONE. -/
def FaultCause (s : State) : FaultCode → Prop
  | .noFault => False
  | .initFail => s.state = encode .rstWait ∧ s.input.initFail = true
  | .txFault => (s.state = encode .tx ∨ s.state = encode .txEnd) ∧ s.input.txFault = true
  | .illegalState => (decode s.state).isReserved = true

theorem exec_rstWait_of_initFail {s : State} (hi : s.input.initFail = true) :
    exec .rstWait s = .next (raiseFault .initFail s) := by
  rw [exec, execRstWait, if_pos hi]

/-- Each cause raises its code, whatever else the tick could do (R156). -/
theorem step_of_faultCause {s : State} {c : FaultCode} (hr : s.input.rst = false) (h : FaultCause s c) :
    step s = .next (raiseFault c s).endTick := by
  cases c with
  | noFault => exact h.elim
  | initFail =>
    obtain ⟨hs, hi⟩ := h
    exact step_of_exec hr (by rw [hs, decode_encode_rstWait, exec_rstWait_of_initFail hi])
  | txFault =>
    obtain ⟨hs, hf⟩ := h
    exact step_txFault hs hr hf
  | illegalState => exact step_of_exec hr (exec_of_isReserved h s)

/-- An operation has a cause to raise a fault, or it leaves `fault` alone. -/
theorem opCase_faultCause {s u : State} (h : OpCase s u) :
    (∃ c, FaultCause s c ∧ u = raiseFault c s) ∨ u.fault = s.fault := by
  cases h with
  | initFail hs hi => exact .inl ⟨.initFail, ⟨hs, hi⟩, rfl⟩
  | txFault hs hf => exact .inl ⟨.txFault, ⟨hs, hf⟩, rfl⟩
  | reserved hs => exact .inl ⟨.illegalState, hs, rfl⟩
  | encode p _ _ => exact .inr (handOver_fault _ _)
  | txLast p _ _ _ _ _ => exact .inr (handOver_fault _ _)
  | _ => exact .inr rfl

theorem raiseFault_fault_of_none {s : State} (hnone : s.fault = .noFault) (c : FaultCode) :
    (raiseFault c s).fault = c := if_pos hnone

/-- From a state with no fault a code is recorded exactly for its cause. -/
theorem step_fault_iff_cause {s t : State} {c : FaultCode} (h : step s = .next t) (hr : s.input.rst = false)
    (hnone : s.fault = .noFault) (hc : c ≠ .noFault) : t.fault = c ↔ FaultCause s c := by
  constructor
  · intro hfault
    obtain ⟨u, hu, rfl⟩ := opCase_of_step h hr
    rw [endTick_fault] at hfault
    rcases opCase_faultCause hu with ⟨d, hd, rfl⟩ | hkept
    · rw [raiseFault_fault_of_none hnone] at hfault
      exact hfault ▸ hd
    · exact absurd (hfault.symm.trans (hkept.trans hnone)) hc
  · intro hcause
    obtain rfl := by simpa [step_of_faultCause hr hcause] using h
    rw [endTick_fault, raiseFault_fault_of_none hnone]

/-- Bits 7:6 of the status word carry the code of the fault recorded. -/
theorem statusWord_fault {s : State} {c : FaultCode} (h : s.fault = c) : (statusWord s).extractLsb' 6 2 = c.bits := by
  obtain ⟨hlayout, -⟩ := statusWordLayout
  obtain ⟨-, -, -, hfault, -⟩ := hlayout s
  rw [hfault, h]
  rfl

/-- Settles O21: each clause is `step_fault_iff_cause` at one code. -/
theorem faultCodesHaveTheirCauses : Obligations.FaultCodesHaveTheirCauses := by
  unfold Obligations.FaultCodesHaveTheirCauses
  refine ⟨fun s t h hr hnone => ⟨?initFail, ?txFault, ?illegalState⟩,
    fun s => ⟨statusWord_fault, statusWord_fault, statusWord_fault, statusWord_fault⟩⟩
  case initFail => exact step_fault_iff_cause h hr hnone (by decide)
  case txFault => exact step_fault_iff_cause h hr hnone (by decide)
  case illegalState => exact (step_fault_iff_cause h hr hnone (by decide)).trans (isReserved_decode_iff s.state)

/-! ### Raising a fault (R152) -/

/-- The transmit position in the status word. -/
theorem statusWord_position (s : State) :
    (statusWord s).extractLsb' 8 5 = s.txSlot ∧ (statusWord s).getLsbD 13 = decide (s.txPhase = .low) := by
  obtain ⟨hlayout, -⟩ := statusWordLayout
  obtain ⟨-, -, -, -, hslot, hphase, -⟩ := hlayout s
  exact ⟨hslot, hphase⟩

theorem outputs_halted (s : State) : (outputs s).halted = (s.state == encode .halt) := rfl

/-- Settles O22: with a cause the tick is `raiseFault` and its end, which write `state` and `fault` alone. -/
theorem faultEntryIsPrecise : Obligations.FaultEntryIsPrecise := by
  unfold Obligations.FaultEntryIsPrecise
  intro s c hr h
  have hcause : FaultCause s c := by
    rcases h with ⟨hs, hi, rfl⟩ | ⟨hs, hf, rfl⟩ | ⟨hlo, hhi, rfl⟩
    · exact ⟨hs, hi⟩
    · exact ⟨hs, hf⟩
    · exact (isReserved_decode_iff s.state).mpr ⟨hlo, hhi⟩
  obtain ⟨hslot, hphase⟩ := statusWord_position (raiseFault c s).endTick
  refine ⟨_, step_of_faultCause hr hcause, rfl, fun hnone => raiseFault_fault_of_none hnone c, fun hsome => if_neg hsome,
    rfl, by simp [outputs_halted], fun _ => rfl, hslot, hphase, fun hs hhigh => ?dout⟩
  case dout =>
    rw [outputs_dout, hs, hhigh]
    rfl

/-! ### The priorities within a tick (R156) -/

theorem sameRegisters_resetTick (s : State) : SameRegisters State.reset (resetTick s).endTick := rfl

/-- Settles O23: a reset and each fault input give the whole next state; where no fault has a cause, the operation of
`state` answers and leaves `fault` alone. -/
theorem priorityWithinOneTick : Obligations.PriorityWithinOneTick := by
  unfold Obligations.PriorityWithinOneTick
  refine fun s => ⟨fun hr => ?reset, fun hr hs hi => ?initFail, fun hr hs hf => ?txFault,
    fun hr hinit htx hlegal hslot => ?operation⟩
  case reset => exact ⟨_, step_of_reset hr, sameRegisters_resetTick s⟩
  case initFail =>
    exact ⟨_, step_of_faultCause (c := .initFail) hr ⟨hs, hi⟩, sameRegisters_endTick _, rfl⟩
  case txFault =>
    exact ⟨_, step_of_faultCause (c := .txFault) hr ⟨hs, hf⟩, sameRegisters_endTick _, rfl, rfl, rfl⟩
  case operation =>
    have hnone : ∀ c, ¬ FaultCause s c
      | .noFault, h => h
      | .initFail, ⟨hs, hi⟩ => Bool.false_ne_true ((hinit hs).symm.trans hi)
      | .txFault, ⟨hs, hf⟩ => Bool.false_ne_true ((htx hs).symm.trans hf)
      | .illegalState, h => Bool.false_ne_true (hlegal.symm.trans h)
    obtain ⟨u, hu⟩ := exec_answers hslot
    refine ⟨u, hu, step_of_exec hr hu, ?_⟩
    rcases opCase_faultCause (opCase_of_exec hu) with ⟨c, hc, -⟩ | hkept
    · exact absurd hc (hnone c)
    · exact hkept

/-! ### HALT (R153, R157) -/

/-- Settles O26: HALT's tick leaves every register alone, so a run of them does, and a reset tick comes first. -/
theorem haltIsLeftByResetOnly : Obligations.HaltIsLeftByResetOnly := by
  unfold Obligations.HaltIsLeftByResetOnly
  exact ⟨fun n s hs hr => run_halt hs hr, fun s _ hr => ⟨_, step_of_reset hr, sameRegisters_resetTick s⟩⟩

theorem exec_halt (s : State) : exec .halt s = .next (goto .halt s) := rfl

/-- Settles O19: HALT writes its own code, under which `halted` is the only control output that is 1. -/
theorem haltStays : Obligations.HaltStays := by
  unfold Obligations.HaltStays
  intro s
  refine ⟨exec_halt s, fun hs => ?_⟩
  rw [outputs_halted, outputs_dout, outputs_adcReq, outputs_rptValid, hs]
  exact ⟨rfl, rfl, rfl, rfl⟩

/-! ### The reserved codes (R155) -/

/-- A reserved code is not the code of an operation that the table names. -/
theorem ne_encode_of_isReserved {c : StateCode} {i : Instr} (h : (decode c).isReserved = true)
    (hi : (decode (encode i)).isReserved = false) : c ≠ encode i := by
  rintro rfl
  exact Bool.false_ne_true (hi.symm.trans h)

/-- Settles O20: the three reserved rows share one meaning, and each control output is that of a code in use. -/
theorem reservedCodesFault : Obligations.ReservedCodesFault := by
  unfold Obligations.ReservedCodesFault
  refine fun s => ⟨fun i hi => exec_of_isReserved hi s, fun h => ?_⟩
  have htx : s.state ≠ encode .tx := ne_encode_of_isReserved h rfl
  have hsample : s.state ≠ encode .sample := ne_encode_of_isReserved h rfl
  have hreport : s.state ≠ encode .report := ne_encode_of_isReserved h rfl
  have hhalt : s.state ≠ encode .halt := ne_encode_of_isReserved h rfl
  rw [outputs_dout, outputs_adcReq, outputs_rptValid, outputs_halted, beq_false_of_ne htx]
  exact ⟨Bool.false_and _, beq_false_of_ne hsample, beq_false_of_ne hreport, beq_false_of_ne hhalt, rfl, rfl, rfl, rfl⟩

end Sys2Proof.Machine
end

section
/-! PROOFS. The statements about spec/70_reset_and_hazards.md: the reset tick (R170), RST_WAIT (R172) and the bring-up
that it waits for (R173), and the loop that goes on for as long as the environment answers (R187). -/

namespace Sys2Proof.Machine

/-! ### The reset tick (R170) -/

/-- Settles O4: a reset tick leads to the reset state, whose registers are constants, and `outputs` reads no field of
the environment. -/
theorem resetTickWritesEveryRegister : Obligations.ResetTickWritesEveryRegister := by
  unfold Obligations.ResetTickWritesEveryRegister
  refine ⟨fun s hr => ⟨_, step_of_reset hr, rfl, rfl, rfl, rfl, rfl, rfl, rfl, rfl, rfl, rfl, rfl, rfl,
    fun _ => memRead_of_lt, rfl, rfl, rfl, rfl, rfl, sameRegisters_resetTick s, ?outputs⟩, fun _ _ _ => rfl⟩
  case outputs => exact (by decide : outputs State.reset = ⟨false, false, false, 0, 0, 0, 0, false, 0⟩)

/-! ### RST_WAIT (R172) -/

theorem exec_rstWait_latch {s : State} (hi : s.input.initFail = false) (hc : s.input.cfgValid = true) :
    exec .rstWait s = .next (goto .calculate { s with clkMhzR := s.input.clockMhz }) := by
  rw [exec, execRstWait, if_neg (by simp [hi]), if_pos hc]

theorem exec_rstWait_waiting {s : State} (hi : s.input.initFail = false) (hc : s.input.cfgValid = false) :
    exec .rstWait s = .next (goto .rstWait s) := by
  rw [exec, execRstWait, if_neg (by simp [hi]), if_neg (by simp [hc])]

/-- Settles O5: RST_WAIT has one branch for each answer that `init_fail` and `cfg_valid` give. -/
theorem rstWaitLatchesOrFaults : Obligations.RstWaitLatchesOrFaults := by
  unfold Obligations.RstWaitLatchesOrFaults
  exact fun _ => ⟨exec_rstWait_of_initFail, exec_rstWait_latch, exec_rstWait_waiting⟩

/-! ### The bring-up (R172, R173) -/

theorem step_rstWait {s t : State} (hs : s.state = encode .rstWait) (hr : s.input.rst = false)
    (h : exec .rstWait s = .next t) : step s = .next t.endTick :=
  step_of_exec hr (by rwa [hs, decode_encode_rstWait])

/-- A wait of any length for bring-up changes no register. -/
theorem run_rstWait_waiting {n : Nat} {s : State} (hs : s.state = encode .rstWait) (hr : NoReset n s)
    (hi : ∀ j < n, (s.inputAt j).initFail = false) (hc : ∀ j < n, (s.inputAt j).cfgValid = false) :
    ∃ t, run n s = .next t ∧ SameRegisters s t := by
  induction n with
  | zero => exact ⟨s, rfl, rfl⟩
  | succ n ih =>
    obtain ⟨t, ht, hsame⟩ := ih (fun j hj => hr j (Nat.lt_succ_of_lt hj)) (fun j hj => hi j (Nat.lt_succ_of_lt hj))
      fun j hj => hc j (Nat.lt_succ_of_lt hj)
    have hstate : t.state = encode .rstWait := by rw [hsame]; exact hs
    have hinput : t.input = s.inputAt n := inputAt_of_run ht 0
    have hlast := Nat.lt_succ_self n
    have hwait : exec .rstWait t = .next t := by
      rw [exec_rstWait_waiting (hinput ▸ hi n hlast) (hinput ▸ hc n hlast), goto_self hstate]
    exact ⟨t.endTick, run_then_step ht (step_rstWait hstate (hinput ▸ hr n hlast) hwait),
      hsame.trans (sameRegisters_endTick t)⟩

/-- The tick in which bring-up completes, after a wait of `n` ticks, latches the frequency it gives. -/
theorem run_rstWait_latch {n : Nat} {s : State} (hs : s.state = encode .rstWait) (hr : NoReset (n + 1) s)
    (hi : ∀ j ≤ n, (s.inputAt j).initFail = false) (hwait : ∀ j < n, (s.inputAt j).cfgValid = false)
    (hc : (s.inputAt n).cfgValid = true) :
    ∃ t, run (n + 1) s = .next t ∧
      SameRegisters { s with clkMhzR := (s.inputAt n).clockMhz, state := encode .calculate } t := by
  obtain ⟨t, ht, hsame⟩ := run_rstWait_waiting hs (fun j hj => hr j (Nat.lt_succ_of_lt hj))
    (fun j hj => hi j hj.le) hwait
  have hstate : t.state = encode .rstWait := by rw [hsame]; exact hs
  have hinput : t.input = s.inputAt n := inputAt_of_run ht 0
  have hlatch := exec_rstWait_latch (s := t) (hinput ▸ hi n (Nat.le_refl n)) (hinput ▸ hc)
  refine ⟨_, run_then_step ht (step_rstWait hstate (hinput ▸ hr n (Nat.lt_succ_self n)) hlatch), ?_⟩
  rw [hinput, hsame]
  rfl

/-- Settles O46: the wait and the latch lead to CALC, whose tick computes the patterns of the frequency latched. -/
theorem bootReachesSample : Obligations.BootReachesSample := by
  unfold Obligations.BootReachesSample
  intro n s hs hr hi hwait hc
  obtain ⟨t, ht, hsame⟩ := run_rstWait_latch hs (fun j hj => hr j (Nat.lt_succ_of_lt hj)) hi hwait hc
  have hstate : t.state = encode .calculate := by rw [hsame]
  have hrst : t.input.rst = false := (hr.after ht (n := 1) (Nat.le_refl _)).first
  obtain ⟨u, hu, -, -, -, -, hvalid, hsample, -⟩ := calcComputesPatterns t
  obtain ⟨hpatterns, hclk, hfault⟩ := calculate_patterns hu
  refine ⟨u.endTick, run_then_step ht (step_of_exec hrst (by rwa [hstate, decode_encode_calculate])), hsample, ?_,
    hpatterns.of_fields rfl rfl rfl rfl rfl, hvalid, ?_⟩
  · rw [endTick_clkMhzR, hclk, hsame]
  · rw [endTick_fault, hfault, hsame]

/-! ### The premises of the loop on the rest of a run -/

theorem NoFaultWhileSending.after {k m n : Nat} {s t : State} (h : NoFaultWhileSending k s) (ht : run m s = .next t)
    (hk : m + n ≤ k) : NoFaultWhileSending n t := by
  intro j hj u hu hs
  rw [inputAt_of_run ht]
  exact h (m + j) (by omega) u ((run_add ht j).trans hu) hs

theorem AdcAnswersWithin.after {limit k m n : Nat} {s t : State} (h : AdcAnswersWithin limit k s)
    (ht : run m s = .next t) (hk : m + n ≤ k) : AdcAnswersWithin limit n t := by
  intro j hj u hu hs
  obtain ⟨i, hlo, hhi, hready⟩ := h (m + j) (by omega) u ((run_add ht j).trans hu) hs
  obtain ⟨i, rfl⟩ := Nat.exists_eq_add_of_le (Nat.le_of_add_right_le hlo)
  exact ⟨i, by omega, by omega, by rwa [inputAt_of_run ht]⟩

/-- In SAMPLE the premise on the ADC gives a wait of bounded length: up to the first tick with an answer. -/
theorem AdcAnswersWithin.ready {limit k : Nat} {s : State} (h : AdcAnswersWithin limit k s) (hk : limit < k)
    (hs : s.state = encode .sample) : ∃ n ≤ limit, AdcReadyAfter n s := by
  obtain ⟨i, -, hi, hready⟩ := h 0 (by omega) s rfl hs
  have hanswer : ∃ n, (s.inputAt n).adcValid = true := ⟨i, hready⟩
  refine ⟨Nat.find hanswer, (Nat.find_min' hanswer hready).trans (by omega), fun j hj => ?_, Nat.find_spec hanswer⟩
  exact Bool.eq_false_of_not_eq_true (Nat.find_min hanswer hj)

/-! ### No fault in the transmission of an iteration

The premise speaks of the ticks whose state is TX or TX_END. That the ticks of the transmission are such ticks depends
in turn on the absence of a fault before them, so the two go on together, one value of the waveform at a time. -/

theorem Sending.no_fault {s : State} {w : List Bool} (h : Sending s w) (hr : NoReset w.length s)
    (hf : NoFaultWhileSending (w.length + 1) s) {j : Nat} (hj : j ≤ w.length) : (s.inputAt j).txFault = false := by
  induction w generalizing s j with
  | nil =>
    obtain rfl : j = 0 := Nat.le_zero.mp hj
    exact hf 0 (Nat.succ_pos _) s rfl (.inr h.nil_state)
  | cons b w ih =>
    have hfirst : (s.inputAt 0).txFault = false := hf 0 (Nat.succ_pos _) s rfl (.inl h.cons_state.1)
    cases j with
    | zero => exact hfirst
    | succ j =>
      obtain ⟨t, ht, hsending, -⟩ := h.step hr.first hfirst
      rw [← inputAt_of_step ht]
      exact ih hsending (hr.rest ht) (hf.after (run_succ_of_step ht 0) (by rw [List.length_cons]; omega))
        (Nat.le_of_succ_le_succ hj)

/-- From SAMPLE to ENCODE: CONVERT and MAP take a tick each. -/
theorem sample_runsThrough_encode {n : Nat} {s : State} (hi : Invariant s) (hs : s.state = encode .sample)
    (ha : AdcReadyAfter n s) (hr : NoReset (n + 3) s) :
    ∃ t, RunsThrough [.sample, .convert, .map] (n + 3) s t ∧ t.state = encode .encode ∧ t.clkMhzR = s.clkMhzR := by
  obtain ⟨a, hsample, hstate, -⟩ := sample_runsThrough hs (fun j hj => hr j (by omega)) ha
  obtain ⟨b, hconvert, hb⟩ := tick_of_invariant (hsample.invariant hi) (i := .convert) (by rw [hstate]; rfl)
    (hr.after hsample.reaches (n := 1) (by omega)).first
  have hconverted := hsample.append hconvert rfl
  obtain ⟨t, hmap, ht⟩ := tick_of_invariant (hconverted.invariant hi) (i := .map) (by rw [hb, successorCode]; rfl)
    (hr.after hconverted.reaches (n := 1) (by omega)).first
  have hmapped := hconverted.append hmap rfl
  exact ⟨t, hmapped, ht, (run_pastCalc hmapped.reaches hr (by rw [PastCalc, hs]; decide)).2.clk⟩

/-- The premise on `tx_fault` as one iteration needs it (R144): of the ticks after ENCODE, counted from SAMPLE. -/
theorem iteration_no_fault {n : Nat} {s : State} (hi : Invariant s) (hs : s.state = encode .sample)
    (ha : AdcReadyAfter n s) (hr : NoReset (n + 4 + transmitTicks s.clkMhzR.toNat) s)
    (hf : NoFaultWhileSending (n + 4 + transmitTicks s.clkMhzR.toNat + 1) s) :
    ∀ j ≤ transmitTicks s.clkMhzR.toNat, (s.inputAt (n + 4 + j)).txFault = false := by
  obtain ⟨t, hbefore, ht, hclk⟩ := sample_runsThrough_encode hi hs ha fun j hj => hr j (by omega)
  obtain ⟨u, hu⟩ : ∃ u, exec .encode t = .next u := ⟨_, exec_encode t⟩
  have hinv := hbefore.invariant hi
  rw [← hclk, ← encode_waveform_length hinv ht hu] at hr hf ⊢
  have hrst : t.input.rst = false := (hr.after hbefore.reaches (n := 1) (by omega)).first
  have hrun : run (n + 4) s = .next u.endTick :=
    run_then_step hbefore.reaches (step_of_exec hrst (by rwa [ht, decode_encode_encode]))
  intro j hj
  rw [← inputAt_of_run hrun]
  exact (encode_sending hinv.frame_canonical hu).endTick.no_fault (hr.after hrun (Nat.le_refl _))
    (hf.after hrun (Nat.le_refl _)) hj

/-! ### The loop (R187) -/

/-- `ReportsApart gap horizon s ticks`: the run from `s` reports in each of `ticks`, which lie before `horizon` and more
than `gap` ticks apart. -/
structure ReportsApart (gap horizon : Nat) (s : State) (ticks : List Nat) : Prop where
  apart : ticks.Pairwise fun i j => i + gap < j
  reports : ∀ n ∈ ticks, n < horizon ∧ ∃ t, run n s = .next t ∧ (outputs t).rptValid = true

theorem ReportsApart.nil (gap horizon : Nat) (s : State) : ReportsApart gap horizon s [] :=
  ⟨.nil, fun _ h => absurd h List.not_mem_nil⟩

/-- A report at `k`, and after it, from tick `m` on, the reports of the rest of the run. -/
theorem ReportsApart.cons {gap horizon horizon' k m : Nat} {s t u : State} {ticks : List Nat}
    (h : ReportsApart gap horizon u ticks) (hu : run m s = .next u) (hhorizon : m + horizon ≤ horizon')
    (ht : run k s = .next t) (hreport : (outputs t).rptValid = true) (hk : k + gap < m) :
    ReportsApart gap horizon' s (k :: ticks.map (m + ·)) where
  apart := by
    refine List.pairwise_cons.mpr ⟨fun j hj => ?_, List.pairwise_map.mpr (h.apart.imp fun hij => by omega)⟩
    obtain ⟨i, -, rfl⟩ := List.mem_map.mp hj
    omega
  reports := by
    intro n hn
    rcases List.mem_cons.mp hn with rfl | hn
    · exact ⟨by omega, t, ht, hreport⟩
    · obtain ⟨i, hi, rfl⟩ := List.mem_map.mp hn
      obtain ⟨hlt, v, hv, hvalid⟩ := h.reports i hi
      exact ⟨by omega, v, (run_add hu i).trans hv, hvalid⟩

/-- One iteration (R144) under the loop's premises: its report comes more than a pace before its end. -/
theorem iteration_report {n : Nat} {s : State} (hi : Invariant s) (hs : s.state = encode .sample)
    (ha : AdcReadyAfter n s) (hr : NoReset (iterationTicks n s.clkMhzR.toNat) s)
    (hf : NoFaultWhileSending (iterationTicks n s.clkMhzR.toNat) s) :
    ∃ k t u, run k s = .next t ∧ (outputs t).rptValid = true ∧
      k + paceLength s.clkMhzR.toNat < iterationTicks n s.clkMhzR.toNat ∧
      run (iterationTicks n s.clkMhzR.toNat) s = .next u ∧ Invariant u ∧ u.state = encode .sample ∧
      u.clkMhzR = s.clkMhzR := by
  have hlength : iterationTicks n s.clkMhzR.toNat =
      n + 5 + transmitTicks s.clkMhzR.toNat + 1 + paceLength s.clkMhzR.toNat := by
    rw [iterationTicks]
    omega
  have hquiet := iteration_no_fault hi hs ha (fun j hj => hr j (by omega)) fun j hj => hf j (by omega)
  obtain ⟨⟨u, hu, hsample, hclk⟩, hreports, -⟩ := oneIterationOneReport n s hi hs ha hr hquiet
  have hk : n + 5 + transmitTicks s.clkMhzR.toNat + paceLength s.clkMhzR.toNat <
      iterationTicks n s.clkMhzR.toNat := by omega
  obtain ⟨t, ht, hvalid⟩ := hreports _ (Nat.lt_of_le_of_lt (Nat.le_add_right _ _) hk)
  obtain ⟨v, hv, hinv⟩ := run_answers_of_invariant hi (iterationTicks n s.clkMhzR.toNat)
  obtain rfl := Host.Outcome.next.inj (hv.symm.trans hu)
  exact ⟨_, t, v, ht, hvalid.mpr rfl, hk, hv, hinv, hsample, hclk⟩

theorem iterationTicks_mono {n limit : Nat} (h : n ≤ limit) (f : Nat) : iterationTicks n f ≤ iterationTicks limit f := by
  rw [iterationTicks, iterationTicks]
  omega

theorem lt_iterationTicks (limit f : Nat) : limit < iterationTicks limit f := by
  rw [iterationTicks]
  omega

/-- By induction on the number of iterations: each has a wait for the ADC within the bound and a transmission without a
fault, and ends where the next one starts. -/
theorem loop_reportsApart {limit m : Nat} {s : State} (hi : Invariant s) (hs : s.state = encode .sample)
    (hr : NoReset (m * iterationTicks limit s.clkMhzR.toNat) s)
    (hf : NoFaultWhileSending (m * iterationTicks limit s.clkMhzR.toNat) s)
    (ha : AdcAnswersWithin limit (m * iterationTicks limit s.clkMhzR.toNat) s) :
    ∃ ticks : List Nat, ticks.length = m ∧
      ReportsApart (paceLength s.clkMhzR.toNat) (m * iterationTicks limit s.clkMhzR.toNat) s ticks := by
  induction m generalizing s with
  | zero => exact ⟨[], rfl, .nil _ _ _⟩
  | succ m ih =>
    rw [Nat.succ_mul, Nat.add_comm (m * _)] at hr hf ha ⊢
    obtain ⟨n, hn, hready⟩ := ha.ready (Nat.lt_add_right _ (lt_iterationTicks limit _)) hs
    have hshort := iterationTicks_mono hn s.clkMhzR.toNat
    obtain ⟨k, t, u, ht, hvalid, hk, hu, hinv, hsample, hclk⟩ :=
      iteration_report hi hs hready (fun j hj => hr j (by omega)) fun j hj => hf j (by omega)
    have hrest := Nat.add_le_add_right hshort (m * iterationTicks limit s.clkMhzR.toNat)
    obtain ⟨ticks, hlength, hticks⟩ := ih hinv hsample (hclk ▸ hr.after hu hrest) (hclk ▸ hf.after hu hrest)
      (hclk ▸ ha.after hu hrest)
    rw [hclk] at hticks
    exact ⟨_, by rw [List.length_cons, List.length_map, hlength], hticks.cons hu hrest ht hvalid hk⟩

/-- Settles O48: the reports of the iterations, one for each. -/
theorem theLoopGoesOnReporting : Obligations.TheLoopGoesOnReporting := by
  unfold Obligations.TheLoopGoesOnReporting
  intro limit m s hi hs horizon hr hf ha
  obtain ⟨ticks, hlength, happart, hreports⟩ := loop_reportsApart hi hs hr hf ha
  exact ⟨ticks, hlength, happart, hreports⟩

end Sys2Proof.Machine
end
